-- ==== Sys2Proof/Word.lean ====
section
/-! DEFINITION. Bits, bytes and words (spec/00_scope.md R7, R8). -/

namespace Sys2Proof

/-- A byte: 8 bits, bit 7 the most significant (R7). -/
abbrev Byte := BitVec 8

/-- A bit. A bit sequence (R8) is a `List Bit` in transmit order. -/
abbrev Bit := Bool

end Sys2Proof
end

