-- ==== Sys2Proof/Config.lean ====
section
/-! DEFINITION. The parameters of spec/00_scope.md R6 that an implementation fixes and no source gives a value for
(OPEN: `none` means unbounded), and the two Boolean parameters R6 fixes. The literal constants of R6 stand in
Sys2Proof/Machine/Constants.lean. -/

namespace Sys2Proof.Config

/-- MAX_PRE, capacity of the preamble register in bytes (R6, D3): OPEN, so a free value (log 8). -/
opaque maxPre : Option Nat

/-- MAX_SYNC, capacity of the sync-word register in bytes (R6, D3): OPEN, so a free value (log 8). -/
opaque maxSync : Option Nat

/-- MAX_PDU_BYTES, the largest PDU accepted (R6, D23): OPEN, so a free value (log 8). -/
opaque maxPduBytes : Option Nat

/-- FORBID_EMPTY_PDU (R6, D23). -/
def forbidEmptyPdu : Bool := false

/-- ADDR_CHECK_ALWAYS (R6, D21). -/
def addrCheckAlways : Bool := false

end Sys2Proof.Config
end

