-- ==== Sys2Proof/Syntax.lean ====
section
/-! DEFINITION. The operations of the core, one constructor of `Instr` per row of spec/opcode_table.json, in the
table's order (spec/30_encoding.md R98), and the data their operands are made of. -/

namespace Sys2Proof

/-- A stored callsign: exactly 6 bytes (spec/10_state.md R24). -/
structure Callsign where
  c0 : Byte
  c1 : Byte
  c2 : Byte
  c3 : Byte
  c4 : Byte
  c5 : Byte
deriving DecidableEq, Repr

/-- The working register an operand names, or a value given explicitly (R10, notation R111; log 16). -/
inductive RegArg (w : Nat) where
  | reg
  | imm (v : BitVec w)
deriving DecidableEq, Repr

/-- A byte-sequence operand: given explicitly, or the one sequence the operation's own rule reads (R60): PB for AX25.HDR,
`FB.SYNC ++ FB.BODY` for CRC16.RUN, the header just assembled for AX25.FCS (log 16). -/
inductive BytesArg where
  | own
  | imm (l : List Byte)
deriving DecidableEq, Repr

/-- An address operand of AX25.ADDR: (CR3, CR4), (CR5, CR6), or a callsign and SSID given explicitly (R131). -/
inductive AddrArg where
  | dest
  | src
  | imm (call : Callsign) (ssid : Byte)
deriving DecidableEq, Repr

/-- The `init` operand of CRC16.RUN: its default CRC_INIT or an explicit seed (R10, R164). -/
inductive InitArg where
  | dflt
  | imm (v : BitVec 16)
deriving DecidableEq, Repr

/-- The 35 operations of the operation map R98. -/
inductive Instr where
  /-- RESET (R270). -/
  | reset
  /-- CFG.LOAD (R227). -/
  | cfgLoad
  /-- PDU.ACCEPT of the PDU `p` on the input port (R228). -/
  | pduAccept (p : List Byte)
  /-- ENCODE (R224). -/
  | encode
  /-- FRM.PRE (R120). -/
  | frmPre
  /-- FRM.SYNC (R121). -/
  | frmSync
  /-- AX25.ENCAP (R137). -/
  | ax25Encap
  /-- AX25.ADDR(call, s, last) (R131). -/
  | ax25Addr (a : AddrArg) (last : Bit)
  /-- AX25.HDR(P) (R132). -/
  | ax25Hdr (p : BytesArg)
  /-- FCS.INIT (R133). -/
  | fcsInit
  /-- FCS.BIT(f, b) (R134). -/
  | fcsBit (f : RegArg 16) (b : Bit)
  /-- FCS.BYTE(f, x) (R135). -/
  | fcsByte (f : RegArg 16) (x : Byte)
  /-- AX25.FCS(H) (R136). -/
  | ax25Fcs (h : BytesArg)
  /-- FRM.BODY (R122). -/
  | frmBody
  /-- CRC16.APPEND (R165). -/
  | crc16Append
  /-- CRC16.INIT (R161). -/
  | crc16Init
  /-- CRC16.BIT(c, b) (R162). -/
  | crc16Bit (c : RegArg 16) (b : Bit)
  /-- CRC16.BYTE(c, x) (R163). -/
  | crc16Byte (c : RegArg 16) (x : Byte)
  /-- CRC16.RUN(s, init) (R164). -/
  | crc16Run (d : BytesArg) (init : InitArg)
  /-- WHITEN (R180). -/
  | whiten
  /-- PN9.INIT (R176). -/
  | pn9Init
  /-- PN9.STEP(s) (R177). -/
  | pn9Step (r : RegArg 9)
  /-- PN9.BYTE (R178). -/
  | pn9Byte
  /-- SER (R202). -/
  | ser
  /-- SER.BYTE(x, m) (R200). -/
  | serByte (x : Byte) (m : Bit)
  /-- AX25.STUFF (R139). -/
  | ax25Stuff
  /-- STUFF.BIT(n, b) (R138). -/
  | stuffBit (n : RegArg 3) (b : Bit)
  /-- MANCH (R192). -/
  | manch
  /-- MANCH.BIT(b) (R191). -/
  | manchBit (b : Bit)
  /-- NRZ (R212). -/
  | nrz
  /-- NRZ.BIT(b) (R211). -/
  | nrzBit (b : Bit)
  /-- SETTLE (R215). -/
  | settle
  /-- TAG (R220). -/
  | tag
  /-- HANDOFF (R230). -/
  | handoff
  /-- SAMPLE.POP (R231). -/
  | samplePop
deriving DecidableEq, Repr

end Sys2Proof
end

