-- ==== Sys2Proof/WellFormed.lean ====
section
/-! DEFINITION. Which operand values an operation admits (spec/41_ax25.md R131, R138; spec/10_state.md R24). -/

namespace Sys2Proof

/-- An upper-case letter or a digit (R242). -/
def isCallChar (c : Byte) : Bool :=
  (0x41#8 ≤ c && c ≤ 0x5A#8) || (0x30#8 ≤ c && c ≤ 0x39#8)

/-- The six bytes of a stored callsign, character 0 first (R65). -/
def Callsign.toList (k : Callsign) : List Byte := [k.c0, k.c1, k.c2, k.c3, k.c4, k.c5]

/-- Callsign characters, at least one, then only pads: what R242 stores. -/
def storedShape (l : List Byte) : Bool :=
  (l.takeWhile isCallChar).length != 0 && (l.dropWhile isCallChar).all (· == 0x20#8)

/-- A callsign as R24 says the register holds it: legal characters followed by trailing pads. -/
def Callsign.legal (k : Callsign) : Bool := storedShape k.toList

/-- An SSID is 0 to 15 (R25). -/
def ssidLegal (s : Byte) : Bool := s ≤ 15#8

/-- ONES is 0 to 4 between steps (R35, R138). -/
def onesLegal (n : BitVec 3) : Bool := n ≤ 4#3

def RegArg.onesOk : RegArg 3 → Bool
  | .reg => true
  | .imm n => onesLegal n

def AddrArg.ok : AddrArg → Bool
  | .dest => true
  | .src => true
  | .imm k s => k.legal && ssidLegal s

/-- The operand checks; every operation without one admits all values of its operands' types. -/
def Instr.wf : Instr → Bool
  | .ax25Addr a _ => a.ok
  | .stuffBit n _ => n.onesOk
  | .reset | .cfgLoad | .pduAccept _ | .encode | .frmPre | .frmSync | .ax25Encap | .ax25Hdr _ | .fcsInit
  | .fcsBit _ _ | .fcsByte _ _ | .ax25Fcs _ | .frmBody | .crc16Append | .crc16Init | .crc16Bit _ _
  | .crc16Byte _ _ | .crc16Run _ _ | .whiten | .pn9Init | .pn9Step _ | .pn9Byte | .ser | .serByte _ _
  | .ax25Stuff | .manch | .manchBit _ | .nrz | .nrzBit _ | .settle | .tag | .handoff | .samplePop => true

end Sys2Proof
end

