-- ==== Sys2Proof/Decode.lean ====
section
/-! DEFINITION. The operation map R98 of spec/30_encoding.md as a table, the decoder of a control word (the ordered
list of operations it enables, R97), and the decoder and encoder of an operation word.

The spec's control word is a set of enables and does not identify one operation (R97). An operation word of the model
(log 1) is the control word, then the row's place in the table, then the operands; a control word alone names the most
specific row that it matches (log 2). -/

namespace Sys2Proof

/-- Why a word is no operation word. -/
inductive DecodeError where
  /-- no byte at all -/
  | empty
  /-- control word bits 7:6 are not 0 (R103) -/
  | flagsReserved
  /-- no row of the operation map has this place -/
  | noSuchRow
  /-- `(FLAGS & mask) == match` fails for the row (R97) -/
  | notInPipeline
  /-- the operand bytes are not operands of the row -/
  | badOperand
  /-- bytes are left over after the operands -/
  | trailing
deriving DecidableEq, Repr

/-- The outcome of decoding. -/
inductive Decoded where
  | ok (i : Instr)
  | reject (e : DecodeError)
deriving DecidableEq, Repr

/-- One row of R98: mnemonic, mask and match of its pattern, and for a row with a slot of its own the operation that
runs there. -/
structure Row where
  mnemonic : String
  mask : Byte
  pat : Byte
  stage : Option Instr
deriving DecidableEq, Repr

/-- The operation map R98, rows in the table's order, which is also the order of the execution slots. -/
def opMap : List Row :=
  [⟨"RESET", 0xC0, 0x00, none⟩,
   ⟨"CFG.LOAD", 0xC0, 0x00, none⟩,
   ⟨"PDU.ACCEPT", 0xC0, 0x00, none⟩,
   ⟨"ENCODE", 0xC0, 0x00, none⟩,
   ⟨"FRM.PRE", 0xC0, 0x00, some .frmPre⟩,
   ⟨"FRM.SYNC", 0xC0, 0x00, some .frmSync⟩,
   ⟨"AX25.ENCAP", 0xD0, 0x10, some .ax25Encap⟩,
   ⟨"AX25.ADDR", 0xD0, 0x10, none⟩,
   ⟨"AX25.HDR", 0xD0, 0x10, none⟩,
   ⟨"FCS.INIT", 0xD0, 0x10, none⟩,
   ⟨"FCS.BIT", 0xD0, 0x10, none⟩,
   ⟨"FCS.BYTE", 0xD0, 0x10, none⟩,
   ⟨"AX25.FCS", 0xD0, 0x10, none⟩,
   ⟨"FRM.BODY", 0xC0, 0x00, some .frmBody⟩,
   ⟨"CRC16.APPEND", 0xC1, 0x01, some .crc16Append⟩,
   ⟨"CRC16.INIT", 0xC1, 0x01, none⟩,
   ⟨"CRC16.BIT", 0xC1, 0x01, none⟩,
   ⟨"CRC16.BYTE", 0xC1, 0x01, none⟩] ++
  [⟨"CRC16.RUN", 0xC1, 0x01, none⟩,
   ⟨"WHITEN", 0xC2, 0x02, some .whiten⟩,
   ⟨"PN9.INIT", 0xC2, 0x02, none⟩,
   ⟨"PN9.STEP", 0xC2, 0x02, none⟩,
   ⟨"PN9.BYTE", 0xC2, 0x02, none⟩,
   ⟨"SER", 0xC0, 0x00, some .ser⟩,
   ⟨"SER.BYTE", 0xC0, 0x00, none⟩,
   ⟨"AX25.STUFF", 0xD0, 0x10, some .ax25Stuff⟩,
   ⟨"STUFF.BIT", 0xD0, 0x10, none⟩,
   ⟨"MANCH", 0xC4, 0x04, some .manch⟩,
   ⟨"MANCH.BIT", 0xC4, 0x04, none⟩,
   ⟨"NRZ", 0xC0, 0x00, some .nrz⟩,
   ⟨"NRZ.BIT", 0xC0, 0x00, none⟩,
   ⟨"SETTLE", 0xC0, 0x00, some .settle⟩,
   ⟨"TAG", 0xC0, 0x00, some .tag⟩,
   ⟨"HANDOFF", 0xC0, 0x00, some .handoff⟩,
   ⟨"SAMPLE.POP", 0xC0, 0x00, none⟩]

/-- R97: the row's operation is in the pipeline under the control word `f`. -/
def Row.enables (r : Row) (f : Byte) : Bool := f &&& r.mask == r.pat

/-- R91, R103: bits 7:6 of a control word are 0. -/
def reservedClear (f : Byte) : Bool := f &&& 0xC0#8 == 0x00#8

/-- R97: the ordered list of operations a control word runs, from the table alone; `none` for an illegal word (R103). -/
def pipelineOf (f : Byte) : Option (List Instr) :=
  if reservedClear f then some ((opMap.filter (·.enables f)).filterMap (·.stage)) else none

/-- The place of an operation's row in the operation map. -/
def Instr.place : Instr → Nat
  | .reset => 0
  | .cfgLoad => 1
  | .pduAccept _ => 2
  | .encode => 3
  | .frmPre => 4
  | .frmSync => 5
  | .ax25Encap => 6
  | .ax25Addr _ _ => 7
  | .ax25Hdr _ => 8
  | .fcsInit => 9
  | .fcsBit _ _ => 10
  | .fcsByte _ _ => 11
  | .ax25Fcs _ => 12
  | .frmBody => 13
  | .crc16Append => 14
  | .crc16Init => 15
  | .crc16Bit _ _ => 16
  | .crc16Byte _ _ => 17
  | .crc16Run _ _ => 18
  | .whiten => 19
  | .pn9Init => 20
  | .pn9Step _ => 21
  | .pn9Byte => 22
  | .ser => 23
  | .serByte _ _ => 24
  | .ax25Stuff => 25
  | .stuffBit _ _ => 26
  | .manch => 27
  | .manchBit _ => 28
  | .nrz => 29
  | .nrzBit _ => 30
  | .settle => 31
  | .tag => 32
  | .handoff => 33
  | .samplePop => 34

/-- The row of an operation. -/
def Instr.row (i : Instr) : Row := opMap.getD i.place ⟨"", 0x00, 0x00, none⟩

/-! ### Operand bytes (log 1) -/

def getBit : List Byte → Option (Bit × List Byte)
  | [] => none
  | x :: r => if x == 0#8 then some (false, r) else if x == 1#8 then some (true, r) else none

def getByte : List Byte → Option (Byte × List Byte)
  | [] => none
  | x :: r => some (x, r)

/-- A byte sequence: each byte after a 1, then a 0. -/
def getBytes : List Byte → Option (List Byte × List Byte)
  | [] => none
  | x :: r =>
    if x == 0#8 then some ([], r)
    else if x == 1#8 then
      match r with
      | [] => none
      | b :: r' =>
        match getBytes r' with
        | none => none
        | some (l, rest) => some (b :: l, rest)
    else none

/-- A value of `w` ≤ 16 bits in two bytes, high byte first; bits at or above `w` must be 0. -/
def getWord (w : Nat) : List Byte → Option (BitVec w × List Byte)
  | hi :: lo :: r =>
    if (hi ++ lo).toNat < 2 ^ w then some ((hi ++ lo).setWidth w, r) else none
  | _ => none

def getRegArg (w : Nat) : List Byte → Option (RegArg w × List Byte)
  | [] => none
  | x :: r =>
    if x == 0#8 then some (.reg, r)
    else if x == 1#8 then (getWord w r).map fun p => (.imm p.1, p.2)
    else none

def getBytesArg : List Byte → Option (BytesArg × List Byte)
  | [] => none
  | x :: r =>
    if x == 0#8 then some (.own, r)
    else if x == 1#8 then (getBytes r).map fun p => (.imm p.1, p.2)
    else none

def getInitArg : List Byte → Option (InitArg × List Byte)
  | [] => none
  | x :: r =>
    if x == 0#8 then some (.dflt, r)
    else if x == 1#8 then (getWord 16 r).map fun p => (.imm p.1, p.2)
    else none

def getAddrArg : List Byte → Option (AddrArg × List Byte)
  | [] => none
  | x :: r =>
    if x == 0#8 then some (.dest, r)
    else if x == 1#8 then some (.src, r)
    else if x == 2#8 then
      match r with
      | c0 :: c1 :: c2 :: c3 :: c4 :: c5 :: s :: r' => some (.imm ⟨c0, c1, c2, c3, c4, c5⟩ s, r')
      | _ => none
    else none

/-- Two operands, one after the other. -/
def getTwo {α β : Type} (f : List Byte → Option (α × List Byte)) (g : List Byte → Option (β × List Byte))
    (l : List Byte) : Option ((α × β) × List Byte) :=
  match f l with
  | none => none
  | some (a, r) => (g r).map fun p => ((a, p.1), p.2)

/-- The operation of the row at place `n` with the operands that follow, and what is left. -/
def decodeOperands (n : Nat) (l : List Byte) : Option (Instr × List Byte) :=
  match n with
  | 0 => some (.reset, l)
  | 1 => some (.cfgLoad, l)
  | 2 => (getBytes l).map fun p => (.pduAccept p.1, p.2)
  | 3 => some (.encode, l)
  | 4 => some (.frmPre, l)
  | 5 => some (.frmSync, l)
  | 6 => some (.ax25Encap, l)
  | 7 => (getTwo getAddrArg getBit l).map fun p => (.ax25Addr p.1.1 p.1.2, p.2)
  | 8 => (getBytesArg l).map fun p => (.ax25Hdr p.1, p.2)
  | 9 => some (.fcsInit, l)
  | 10 => (getTwo (getRegArg 16) getBit l).map fun p => (.fcsBit p.1.1 p.1.2, p.2)
  | 11 => (getTwo (getRegArg 16) getByte l).map fun p => (.fcsByte p.1.1 p.1.2, p.2)
  | 12 => (getBytesArg l).map fun p => (.ax25Fcs p.1, p.2)
  | 13 => some (.frmBody, l)
  | 14 => some (.crc16Append, l)
  | 15 => some (.crc16Init, l)
  | 16 => (getTwo (getRegArg 16) getBit l).map fun p => (.crc16Bit p.1.1 p.1.2, p.2)
  | 17 => (getTwo (getRegArg 16) getByte l).map fun p => (.crc16Byte p.1.1 p.1.2, p.2)
  | 18 => (getTwo getBytesArg getInitArg l).map fun p => (.crc16Run p.1.1 p.1.2, p.2)
  | 19 => some (.whiten, l)
  | 20 => some (.pn9Init, l)
  | 21 => (getRegArg 9 l).map fun p => (.pn9Step p.1, p.2)
  | 22 => some (.pn9Byte, l)
  | 23 => some (.ser, l)
  | 24 => (getTwo getByte getBit l).map fun p => (.serByte p.1.1 p.1.2, p.2)
  | 25 => some (.ax25Stuff, l)
  | 26 => (getTwo (getRegArg 3) getBit l).map fun p => (.stuffBit p.1.1 p.1.2, p.2)
  | 27 => some (.manch, l)
  | 28 => (getBit l).map fun p => (.manchBit p.1, p.2)
  | 29 => some (.nrz, l)
  | 30 => (getBit l).map fun p => (.nrzBit p.1, p.2)
  | 31 => some (.settle, l)
  | 32 => some (.tag, l)
  | 33 => some (.handoff, l)
  | 34 => some (.samplePop, l)
  | _ => none

/-- The whole of a word is one well-formed operation of the row at place `n`, or the reason why not. -/
def decodeAt (n : Nat) (l : List Byte) : Decoded :=
  match decodeOperands n l with
  | none => .reject .badOperand
  | some (i, []) => if i.wf then .ok i else .reject .badOperand
  | some (_, _ :: _) => .reject .trailing

/-- The most specific row a control word alone matches: the first in the table whose pattern fixes more than bits 7:6,
else the first (log 2). -/
def mostSpecific (f : Byte) : Nat :=
  match opMap.findIdx? (fun r => r.mask != 0xC0#8 && r.enables f) with
  | some n => n
  | none => 0

/-- The operation of an operation word. -/
def decode : List Byte → Decoded
  | [] => .reject .empty
  | [f] => if reservedClear f then decodeAt (mostSpecific f) [] else .reject .flagsReserved
  | f :: n :: l =>
    if reservedClear f then
      match opMap[n.toNat]? with
      | none => .reject .noSuchRow
      | some r => if r.enables f then decodeAt n.toNat l else .reject .notInPipeline
    else .reject .flagsReserved

/-! ### The encoder -/

def putBit (b : Bit) : List Byte := [if b then 1#8 else 0#8]

def putBytes : List Byte → List Byte
  | [] => [0#8]
  | b :: l => 1#8 :: b :: putBytes l

def putWord {w : Nat} (v : BitVec w) : List Byte :=
  [(v.setWidth 16).extractLsb' 8 8, (v.setWidth 16).extractLsb' 0 8]

def putRegArg {w : Nat} : RegArg w → List Byte
  | .reg => [0#8]
  | .imm v => 1#8 :: putWord v

def putBytesArg : BytesArg → List Byte
  | .own => [0#8]
  | .imm l => 1#8 :: putBytes l

def putInitArg : InitArg → List Byte
  | .dflt => [0#8]
  | .imm v => 1#8 :: putWord v

def putAddrArg : AddrArg → List Byte
  | .dest => [0#8]
  | .src => [1#8]
  | .imm k s => 2#8 :: (k.toList ++ [s])

/-- The operand bytes of an operation. -/
def Instr.operandBytes : Instr → List Byte
  | .pduAccept p => putBytes p
  | .ax25Addr a last => putAddrArg a ++ putBit last
  | .ax25Hdr p => putBytesArg p
  | .fcsBit f b => putRegArg f ++ putBit b
  | .fcsByte f x => putRegArg f ++ [x]
  | .ax25Fcs h => putBytesArg h
  | .crc16Bit c b => putRegArg c ++ putBit b
  | .crc16Byte c x => putRegArg c ++ [x]
  | .crc16Run d init => putBytesArg d ++ putInitArg init
  | .pn9Step r => putRegArg r
  | .serByte x m => x :: putBit m
  | .stuffBit n b => putRegArg n ++ putBit b
  | .manchBit b => putBit b
  | .nrzBit b => putBit b
  | .reset | .cfgLoad | .encode | .frmPre | .frmSync | .ax25Encap | .fcsInit | .frmBody | .crc16Append
  | .crc16Init | .whiten | .pn9Init | .pn9Byte | .ser | .ax25Stuff | .manch | .nrz | .settle | .tag | .handoff
  | .samplePop => []

/-- The word of an operation under the control word `f`, which its row must enable. -/
def encodeUnder (f : Byte) (i : Instr) : List Byte :=
  f :: BitVec.ofNat 8 i.place :: i.operandBytes

/-- The word of an operation under its row's `match` word. -/
def encode (i : Instr) : List Byte := encodeUnder i.row.pat i

/-! ### The host's question -/

/-- The `k` bytes of `w`, least significant first. -/
def wordBytes : Nat → Nat → List Byte
  | 0, _ => []
  | k + 1, w => BitVec.ofNat 8 w :: wordBytes k (w / 256)

/-- The operation the decoder reads from a table word of `nbits` bits. -/
def decodeTableWord (nbits w : Nat) : Option Instr :=
  match decode (wordBytes ((nbits + 7) / 8) w) with
  | .ok i => some i
  | .reject _ => none

end Sys2Proof
end

