-- ==== Sys2Proof/Machine/State.lean ====
section
/-! DEFINITION. The state of the frame-encoder core as plain data (spec/10_state.md R20), the reasons a step can stop,
and the state right after reset (R45). Marks as INVENTORY.md '## State' lists them. -/

namespace Sys2Proof.Machine

/-- The phase of the sequencer (R30). -/
inductive Phase where
  | reset
  | cfgerr
  | idle
  | encoding
deriving DecidableEq, Repr

/-- The execution slots E1 to E10 of R224, and E0 for the phases without one (R30). -/
inductive Slot where
  | e0 | e1 | e2 | e3 | e4 | e5 | e6 | e7 | e8 | e9 | e10
deriving DecidableEq, Repr

/-- SR0 SEQ: the pair (phase, slot) (R30). -/
structure Seq where
  phase : Phase
  slot : Slot
deriving DecidableEq, Repr

/-- A sample, one of the three values of R95, R210 (log 23). -/
inductive Sample where
  | neg
  | zero
  | pos
deriving DecidableEq, Repr

/-- The burst tag record F-TAG (R96). -/
structure Tag where
  sob : Bit
  burstLen : BitVec 32
  offset : BitVec 64
deriving DecidableEq, Repr

/-- An element of OUTQ: a sample with its tag or none (R40). -/
structure TaggedSample where
  sample : Sample
  tag : Option Tag
deriving DecidableEq, Repr

/-- CR0 to CR7 (R21 to R28). -/
structure CfgRegs where
  cr0 : Byte
  cr1 : List Byte
  cr2 : List Byte
  cr3 : Callsign
  cr4 : Byte
  cr5 : Callsign
  cr6 : Byte
  cr7 : BitVec 32
deriving DecidableEq, Repr

/-- Which registers hold a value: a working register once it is written in the current encode (R46), the four address
registers once CFG.LOAD has stored checked addresses (R242). -/
structure Held where
  addr : Bool
  crc : Bool
  fcs : Bool
  lfsr : Bool
  ones : Bool
deriving DecidableEq, Repr

/-- FB, the frame buffer with its span table: a span that has not been appended is `none`; an absent CRC span is the
empty sequence (R37). -/
structure FrameBuf where
  pre : Option (List Byte)
  sync : Option (List Byte)
  body : Option (List Byte)
  crc : List Byte
deriving DecidableEq, Repr

/-- BB, the bit buffer: four per-span sequences and BB.LINE, each `none` until written (R38, R46). -/
structure BitBuf where
  pre : Option (List Bit)
  sync : Option (List Bit)
  body : Option (List Bit)
  crc : Option (List Bit)
  line : Option (List Bit)
deriving DecidableEq, Repr

/-- What TAG writes: SB.LEN, SB.OFF and the tag of SB.S[0] (R220). -/
structure BurstDesc where
  len : BitVec 32
  off : BitVec 64
  tag : Option Tag
deriving DecidableEq, Repr

/-- SB, the sample buffer (R39). -/
structure SampleBuf where
  s : Option (List Sample)
  desc : Option BurstDesc
deriving DecidableEq, Repr

/-- What the last sub-operation returned (the Result of its rule; log 16). -/
inductive Result where
  | nothing
  | byte (x : Byte)
  | word (x : BitVec 16)
  | lfsr (x : BitVec 9)
  | bytes (l : List Byte)
  | bits (l : List Bit)
  | sample (x : Sample)
  | fcs (f : BitVec 16) (l : List Byte)
deriving DecidableEq, Repr

/-- The answer to the push transaction (R228, R232, R248; log 17). -/
inductive PushAnswer where
  | none
  | pending
  | ok
  | error (cls : BitVec 2) (cause : BitVec 4)
deriving DecidableEq, Repr

/-- The AX.25 address group of the configuration port; a host may leave it out (R108, R227). -/
structure AddrGroup where
  dest : List Byte
  dssid : Byte
  src : List Byte
  sssid : Byte
deriving DecidableEq, Repr

/-- The values on port `cfg` (R229). -/
structure CfgValues where
  flags : Byte
  preamble : List Byte
  sync : List Byte
  addr : Option AddrGroup
  settling : BitVec 32
deriving DecidableEq, Repr

/-- The parameters of R6 the model takes as arguments; `none` is unbounded (R6, R44; log 8). -/
structure Params where
  maxPre : Option Nat
  maxSync : Option Nat
  maxPdu : Option Nat
  forbidEmptyPdu : Bool
  addrCheckAlways : Bool
deriving DecidableEq, Repr

/-- What the status port shows: `ready`, `cfg_err`, SR1, SR2 (R229). -/
structure Status where
  ready : Bool
  cfgErr : Bool
  err : BitVec 16
  sampleCnt : BitVec 64
deriving DecidableEq, Repr

/-- One of the five transactions of the host, which are all it can do (R229, R255), or none in this step (log 4). -/
inductive HostMove where
  /-- the host does nothing; the core makes its own move -/
  | wait
  /-- a request on port `rst` -/
  | reset
  /-- the host drives port `cfg` -/
  | drive (v : CfgValues)
  /-- the PDU `p` is offered on port `pdu_in` -/
  | push (p : List Byte)
  /-- a pull on port `samp_out` -/
  | pop
  /-- a read of port `status` -/
  | status
deriving DecidableEq, Repr

/-- The state of the core (R20) and, last, its input and output ports. -/
structure State where
  cfg : CfgRegs
  seq : Seq
  err : BitVec 16
  sampleCnt : BitVec 64
  crc : BitVec 16
  fcs : BitVec 16
  lfsr : BitVec 9
  ones : BitVec 3
  held : Held
  pb : Option (List Byte)
  fb : FrameBuf
  bb : BitBuf
  sb : SampleBuf
  outq : List TaggedSample
  encap : Option (List Byte)
  res : Result
  pushAns : PushAnswer
  sampOut : Option TaggedSample
  statOut : Option Status
  cfgPort : CfgValues
  host : List HostMove
  word : Option (List Byte)
  par : Params
deriving DecidableEq, Repr

/-- Why the machine stops with a fault. -/
inductive Fault where
  /-- Raised by `step` when SEQ is (ENCODING, E0), which R30 excludes; safe (log 24). -/
  | seqIllegal
deriving DecidableEq, Repr

/-- Why a word has no meaning. -/
inductive Refusal where
  /-- Raised by an arm of `exec` whose operation has no meaning yet; safe. No arm of this model does. -/
  | notModelled (mnemonic : String)
  /-- Raised by `step` when the operation word given for itself decodes to nothing; safe (logs 1, 31). -/
  | badWord (e : DecodeError)
deriving DecidableEq, Repr

/-- The outcome of an operation. -/
abbrev Out := Host.Outcome State Fault Refusal

/-- An empty frame buffer, bit buffer and sample buffer. -/
def FrameBuf.empty : FrameBuf := ⟨none, none, none, []⟩
def BitBuf.empty : BitBuf := ⟨none, none, none, none, none⟩
def SampleBuf.empty : SampleBuf := ⟨none, none⟩

/-- CR0 to CR7 before CFG.LOAD: the spec gives no value; DESIGN CHOICE zero and empty (log 6). -/
def CfgRegs.atReset : CfgRegs := ⟨0x00, [], [], ⟨0, 0, 0, 0, 0, 0⟩, 0x00, ⟨0, 0, 0, 0, 0, 0⟩, 0x00, 0⟩

/-- No register holds a value (R270, R46). -/
def Held.none : Held := ⟨false, false, false, false, false⟩

/-- Port `cfg` before the host drives it: DESIGN CHOICE FLAGS 0x20, the rest empty (log 5). -/
def CfgValues.undriven : CfgValues := ⟨0x20, [], [], Option.none, 0⟩

/-- The parameters of this hardware: the OPEN ones free, the two Booleans as R6 fixes them (log 8). -/
def Params.ofConfig : Params :=
  ⟨Config.maxPre, Config.maxSync, Config.maxPduBytes, Config.forbidEmptyPdu, Config.addrCheckAlways⟩

/-- The state right after the reset operation, before CFG.LOAD runs (R45, R270). -/
def State.reset : State where
  cfg := CfgRegs.atReset
  seq := ⟨.reset, .e0⟩
  err := 0x0000
  sampleCnt := 0
  crc := 0
  fcs := 0
  lfsr := 0
  ones := 0
  held := Held.none
  pb := none
  fb := FrameBuf.empty
  bb := BitBuf.empty
  sb := SampleBuf.empty
  outq := []
  encap := none
  res := .nothing
  pushAns := .none
  sampOut := none
  statOut := none
  cfgPort := CfgValues.undriven
  host := []
  word := none
  par := Params.ofConfig

end Sys2Proof.Machine
end

