-- ==== Sys2Proof/Machine/Constants.lean ====
section
/-! DEFINITION. The fixed parameter values of spec/00_scope.md R6 (those the spec marks `[from general knowledge, not
in source]` are listed in log 25). -/

namespace Sys2Proof.Machine

def crcInit : BitVec 16 := 0xFFFF
def crcXorOut : BitVec 16 := 0x0000
def crcPoly : BitVec 16 := 0x1021
def fcsPolyR : BitVec 16 := 0x8408
def fcsInit : BitVec 16 := 0xFFFF
def fcsXorOut : BitVec 16 := 0xFFFF
def pn9Seed : BitVec 9 := 0x1FF

/-- MANCH_ZERO and MANCH_ONE, first transmitted bit first. -/
def manchZero : List Bit := [false, true]
def manchOne : List Bit := [true, false]

def nrzZero : Sample := .neg
def nrzOne : Sample := .pos

def ax25Ctrl : Byte := 0x03
def ax25Pid : Byte := 0xF0
def ax25Pad : Byte := 0x20
def ax25SsidBase : Byte := 0x60

/-- 2^LEN_W with LEN_W = 32: a burst length must be below it (R11). -/
def lenLimit : Nat := 2 ^ 32

/-- The binary32 code of a sample (R95). -/
def sampleCode : Sample → BitVec 32
  | .pos => 0x3F800000
  | .neg => 0xBF800000
  | .zero => 0x00000000

end Sys2Proof.Machine
end

