-- ==== Sys2Proof/Machine/Flags.lean ====
section
/-! DEFINITION. The control word CR0 FLAGS (spec/10_state.md R21), the error record SR1 ERR (R31), the sequencer's
slots (R225) and the status port (spec/48_burst_orchestrator.md R229). The hardware has no condition codes (R41). -/

namespace Sys2Proof.Machine

/-! ### CR0 FLAGS -/

def flagAppendCrc (f : Byte) : Bool := f.getLsbD 0
def flagWhitening (f : Byte) : Bool := f.getLsbD 1
def flagManchester (f : Byte) : Bool := f.getLsbD 2
def flagMsbFirst (f : Byte) : Bool := f.getLsbD 3
def flagAx25 (f : Byte) : Bool := f.getLsbD 4
def flagManchPreamble (f : Byte) : Bool := f.getLsbD 5

def State.appendCrc (s : State) : Bool := flagAppendCrc s.cfg.cr0
def State.whitening (s : State) : Bool := flagWhitening s.cfg.cr0
def State.manchester (s : State) : Bool := flagManchester s.cfg.cr0
def State.msbFirst (s : State) : Bool := flagMsbFirst s.cfg.cr0
def State.ax25 (s : State) : Bool := flagAx25 s.cfg.cr0
def State.manchPreamble (s : State) : Bool := flagManchPreamble s.cfg.cr0

/-! ### Slots -/

/-- The number of an execution slot. -/
def slotNum : Slot → Nat
  | .e0 => 0 | .e1 => 1 | .e2 => 2 | .e3 => 3 | .e4 => 4 | .e5 => 5
  | .e6 => 6 | .e7 => 7 | .e8 => 8 | .e9 => 9 | .e10 => 10

/-- The "runs when" column of R224. -/
def slotRuns (f : Byte) : Slot → Bool
  | .e0 => false
  | .e3 => flagAppendCrc f
  | .e4 => flagWhitening f
  | .e6 => flagAx25 f
  | .e7 => flagManchester f
  | .e1 | .e2 | .e5 | .e8 | .e9 | .e10 => true

/-- The execution slots in order. -/
def allSlots : List Slot := [.e1, .e2, .e3, .e4, .e5, .e6, .e7, .e8, .e9, .e10]

/-- R225: where SEQ goes when slot `k` completes: the least slot above `k` that runs, or (IDLE, E0) after E10. -/
def nextSeq (f : Byte) (k : Slot) : Seq :=
  match allSlots.find? (fun j => slotNum k < slotNum j && slotRuns f j) with
  | some j => ⟨.encoding, j⟩
  | none => ⟨.idle, .e0⟩

/-! ### SR1 ERR -/

def errCfg (e : BitVec 16) : Bool := e.getLsbD 15
def errEnc (e : BitVec 16) : Bool := e.getLsbD 14
def errClass (e : BitVec 16) : BitVec 2 := e.extractLsb' 12 2
def errCause (e : BitVec 16) : BitVec 4 := e.extractLsb' 8 4
def errInfo (e : BitVec 16) : Byte := e.extractLsb' 0 8

/-- The error classes (R240). -/
def clsCfg : BitVec 2 := 1
def clsEnc : BitVec 2 := 2

/-- ConfigurationError causes (R241). -/
def causeCallsignLen : BitVec 4 := 1
def causeCallsignChar : BitVec 4 := 2
def causeSsidRange : BitVec 4 := 3
def causeSyncEmpty : BitVec 4 := 4
def causeCfgSize : BitVec 4 := 5
def causeFlagsReserved : BitVec 4 := 6

/-- EncodingError causes (R245). -/
def causePduTooLarge : BitVec 4 := 1
def causePduEmpty : BitVec 4 := 2
def causeInternal : BitVec 4 := 3

/-- R31, R247, R248: ERR after a `raise`: one sticky bit set, the other kept, class, cause and info replaced. -/
def errRecord (e : BitVec 16) (cls : BitVec 2) (cause : BitVec 4) (info : Byte) : BitVec 16 :=
  BitVec.ofBool (errCfg e || cls == clsCfg) ++ BitVec.ofBool (errEnc e || cls == clsEnc) ++ cls ++ cause ++ info

/-! ### The status port -/

def State.ready (s : State) : Bool := s.seq.phase == .idle
def State.cfgErr (s : State) : Bool := s.seq.phase == .cfgerr

/-- What a status read shows, in any phase (R71, R229, R232). -/
def State.status (s : State) : Status := ⟨s.ready, s.cfgErr, s.err, s.sampleCnt⟩

end Sys2Proof.Machine
end

