-- ==== Sys2Proof/Machine/Ops.lean ====
section
/-! DEFINITION. The named operations every meaning is built from: the access primitives of spec/20_memory.md R73, the
end of an encode, raising the two errors (spec/60_exceptions.md R247, R248; there is no return operation, R252), the
completion of an execution slot (R225), and the two shapes an operation of ENCODE has. -/

namespace Sys2Proof.Machine

/-! ### Access primitives -/

/-- R73 `MemRead(buf, i, n)`; `none` where its requirement `i + n ≤ |buf|` fails (R68). -/
def memRead {α : Type} (buf : List α) (i n : Nat) : Option (List α) :=
  if i + n ≤ buf.length then some ((buf.drop i).take n) else none

/-- R73 `MemWrite(buf, i, n, v)`; `none` where a requirement fails (R68). -/
def memWrite {α : Type} (buf : List α) (i n : Nat) (v : List α) : Option (List α) :=
  if i + n ≤ buf.length ∧ v.length = n then some (buf.take i ++ v ++ buf.drop (i + n)) else none

/-- R73 `Append(buf, v)`. -/
def append {α : Type} (buf v : List α) : List α := buf ++ v

/-! ### The end of an encode -/

/-- What is local to one encode is discarded (R33, R46, R230, R248): buffers, latches, and the marks of the working
registers (log 7). -/
def discardEncode (s : State) : State :=
  { s with
    pb := none, fb := FrameBuf.empty, bb := BitBuf.empty, sb := SampleBuf.empty, encap := none, res := .nothing
    held := { s.held with crc := false, fcs := false, lfsr := false, ones := false } }

/-! ### Raising an error -/

/-- R247 `raise ConfigurationError(cause, info)`. -/
def raiseConfigurationError (cause : BitVec 4) (info : Byte) (s : State) : State :=
  { s with err := errRecord s.err clsCfg cause info, seq := ⟨.cfgerr, .e0⟩ }

/-- R248 `raise EncodingError(cause, info)`. -/
def raiseEncodingError (cause : BitVec 4) (info : Byte) (s : State) : State :=
  { discardEncode s with
    err := errRecord s.err clsEnc cause info, seq := ⟨.idle, .e0⟩, pushAns := .error clsEnc cause }

/-- R246 INTERNAL: `info` is the number of the slot in which it is raised (R245). -/
def raiseInternal (s : State) : State :=
  raiseEncodingError causeInternal (BitVec.ofNat 8 (slotNum s.seq.slot)) s

/-! ### Completing a slot -/

/-- R224, the "else" of slot E7: BB.LINE is the plain concatenation of the spans. -/
def plainLine (b : BitBuf) : Option (List Bit) := do
  let p ← b.pre
  let y ← b.sync
  let d ← b.body
  let c ← b.crc
  return p ++ y ++ d ++ c

/-- Whether going from slot `k` to `j` skips slot `x`. -/
def skips (k : Slot) (j : Seq) (x : Slot) : Bool :=
  slotNum k < slotNum x && j.phase == .encoding && slotNum x < slotNum j.slot

/-- R224, the "else" of a slot that does not run: FB.CRC = [] for E3, BB.LINE the plain concatenation for E7, nothing
for the others (log 19). -/
def elseEffect (k : Slot) (s : State) : State :=
  match k with
  | .e3 => { s with fb := { s.fb with crc := [] } }
  | .e7 => { s with bb := { s.bb with line := plainLine s.bb } }
  | .e0 | .e1 | .e2 | .e4 | .e5 | .e6 | .e8 | .e9 | .e10 => s

/-- The "else" of slot `x` where going from `k` to `j` skips it. -/
def elseIfSkipped (k : Slot) (j : Seq) (x : Slot) (s : State) : State :=
  if skips k j x then elseEffect x s else s

/-- R225: slot `k` completes and SEQ goes to the next slot that runs, past the slots that do not. -/
def completeSlot (k : Slot) (s : State) : State :=
  let j := nextSeq s.cfg.cr0 k
  { elseIfSkipped k j .e7 (elseIfSkipped k j .e3 s) with seq := j }

/-! ### The two shapes of an operation of ENCODE -/

/-- The core is inside an encode. -/
def State.encoding (s : State) : Bool := s.seq.phase == .encoding

/-- An operation of slot `k`. It runs only while SEQ stands at its slot (R30; log 12). `on`: its enabling bit (R97).
`last`: it completes the slot. `f`: its effect, `none` where it raises INTERNAL (R246). A disabled slot is skipped
(R225). -/
def slotOp (k : Slot) (on last : Bool) (f : State → Option State) (s : State) : State :=
  if s.seq = ⟨.encoding, k⟩ then
    if on then
      match f s with
      | none => raiseInternal s
      | some t => if last then completeSlot k t else t
    else if last then completeSlot k (elseEffect k s) else s
  else s

/-- A sub-operation. It runs only inside an encode (R226) and where its enabling bit `on` is set (R97); else it is not
invoked and nothing changes (log 12). -/
def subOp (on : Bool) (f : State → Option State) (s : State) : State :=
  if s.encoding && on then (f s).getD (raiseInternal s) else s

end Sys2Proof.Machine
end

