-- ==== Sys2Proof/Machine/Operands.lean ====
section
/-! DEFINITION. Every operand form (log 16): where an operation's argument comes from. A read of a register or buffer
that holds no value in this encode gives `none`, which the caller turns into INTERNAL (spec/10_state.md R46). -/

namespace Sys2Proof.Machine

/-- A register argument: the register `v`, which holds a value when `held` is true, or an explicit value. -/
def readReg {w : Nat} (held : Bool) (v : BitVec w) : RegArg w → Option (BitVec w)
  | .reg => if held then some v else none
  | .imm x => some x

def readCrc (s : State) (a : RegArg 16) : Option (BitVec 16) := readReg s.held.crc s.crc a
def readFcs (s : State) (a : RegArg 16) : Option (BitVec 16) := readReg s.held.fcs s.fcs a
def readLfsr (s : State) (a : RegArg 9) : Option (BitVec 9) := readReg s.held.lfsr s.lfsr a

/-- ONES is 0 to 4 between steps (R35); any other value is a contract violation, INTERNAL (R11, R246; log 20). -/
def readOnes (s : State) (a : RegArg 3) : Option (BitVec 3) :=
  match readReg s.held.ones s.ones a with
  | some n => if onesLegal n then some n else none
  | none => none

/-- `FB.SYNC ++ FB.BODY`, the input of the CRC (R160). -/
def crcInput (s : State) : Option (List Byte) := do
  let y ← s.fb.sync
  let d ← s.fb.body
  return y ++ d

/-- The header that AX25.FCS runs over: the byte sequence the last operation returned, if it returned one (R136). -/
def headerBytes : Result → Option (List Byte)
  | .bytes l => some l
  | .nothing | .byte _ | .word _ | .lfsr _ | .bits _ | .sample _ | .fcs _ _ => none

/-- A byte-sequence argument of an operation whose rule reads `own`. -/
def readBytes (own : Option (List Byte)) : BytesArg → Option (List Byte)
  | .own => own
  | .imm l => some l

/-- The payload argument of AX25.HDR (R132): only PB, beside an explicit one (R60). -/
def readPayload (s : State) (a : BytesArg) : Option (List Byte) := readBytes s.pb a

/-- The argument of CRC16.RUN (R164, R165): only FB, beside an explicit one (R60). -/
def readFrame (s : State) (a : BytesArg) : Option (List Byte) := readBytes (crcInput s) a

/-- The argument of AX25.FCS (R136): no buffer, only the header just assembled, beside an explicit one (R60). -/
def readHeader (s : State) (a : BytesArg) : Option (List Byte) := readBytes (headerBytes s.res) a

/-- An address argument: a stored callsign and its SSID. -/
def readAddr (s : State) : AddrArg → Option (Callsign × Byte)
  | .dest => if s.held.addr then some (s.cfg.cr3, s.cfg.cr4) else none
  | .src => if s.held.addr then some (s.cfg.cr5, s.cfg.cr6) else none
  | .imm k n => some (k, n)

/-- The `init` argument of CRC16.RUN (R164). -/
def readInit : InitArg → BitVec 16
  | .dflt => crcInit
  | .imm v => v

end Sys2Proof.Machine
end

