-- ==== Sys2Proof/Machine/Ax25.lean ====
section
/-! DEFINITION. The AX.25 frame encoder and bit stuffer (spec/41_ax25.md R130 to R146). -/

namespace Sys2Proof.Machine

/-! ### Address field and header -/

/-- R99: the character code shifted left one place within 8 bits. -/
def callOctet (c : Byte) : Byte := c <<< 1

/-- R100, R131: `0x60 | ((s & 0xF) << 1) | last`. -/
def ssidOctet (n : Byte) (last : Bit) : Byte :=
  ax25SsidBase ||| ((n &&& 0x0F#8) <<< 1) ||| (if last then 1#8 else 0#8)

/-- R131: AX25.ADDR(call, s, last). -/
def ax25Addr (k : Callsign) (n : Byte) (last : Bit) : List Byte :=
  k.toList.map callOctet ++ [ssidOctet n last]

/-- R132: AX25.HDR(P) under the address registers of `g`. -/
def ax25Hdr (g : CfgRegs) (p : List Byte) : List Byte :=
  ax25Addr g.cr3 g.cr4 false ++ ax25Addr g.cr5 g.cr6 true ++ [ax25Ctrl, ax25Pid] ++ p

/-! ### Frame check sequence -/

/-- R134. -/
def fcsBit (f : BitVec 16) (b : Bit) : BitVec 16 :=
  if f.getLsbD 0 ^^ b then (f >>> 1) ^^^ fcsPolyR else f >>> 1

/-- R135: least significant bit first. -/
def fcsByte (f : BitVec 16) (x : Byte) : BitVec 16 :=
  [0, 1, 2, 3, 4, 5, 6, 7].foldl (fun f i => fcsBit f (x.getLsbD i)) f

/-- The FCS register after the bytes of `h` (R136). -/
def fcsReg (h : List Byte) : BitVec 16 := h.foldl fcsByte fcsInit

/-- The FCS value of `h`, the register complemented (R136). -/
def fcsValue (h : List Byte) : BitVec 16 := fcsReg h ^^^ fcsXorOut

/-- R63, R101: low byte, then high byte. -/
def fcsBytes (f : BitVec 16) : List Byte := [f.extractLsb' 0 8, f.extractLsb' 8 8]

/-- R137: AX25.ENCAP(P). -/
def ax25Encap (g : CfgRegs) (p : List Byte) : List Byte :=
  ax25Hdr g p ++ fcsBytes (fcsValue (ax25Hdr g p))

/-- The FCS register is written (R33). -/
def setFcs (v : BitVec 16) (s : State) : State :=
  { s with fcs := v, held := { s.held with fcs := true } }

/-- AX25.ADDR (R131). -/
def execAx25Addr (a : AddrArg) (last : Bit) (s : State) : Out :=
  .next (subOp s.ax25 (fun s => do
    let k ← readAddr s a
    return { s with res := .bytes (ax25Addr k.1 k.2 last) }) s)

/-- AX25.HDR (R132). -/
def execAx25Hdr (p : BytesArg) (s : State) : Out :=
  .next (subOp s.ax25 (fun s => do
    let l ← readPayload s p
    let _ ← readAddr s .dest
    return { s with res := .bytes (ax25Hdr s.cfg l) }) s)

/-- FCS.INIT (R133). -/
def execFcsInit (s : State) : Out := .next (subOp s.ax25 (fun s => some (setFcs fcsInit s)) s)

/-- FCS.BIT (R134). -/
def execFcsBit (f : RegArg 16) (b : Bit) (s : State) : Out :=
  .next (subOp s.ax25 (fun s => do
    let v ← readFcs s f
    return { setFcs (fcsBit v b) s with res := .word (fcsBit v b) }) s)

/-- FCS.BYTE (R135). -/
def execFcsByte (f : RegArg 16) (x : Byte) (s : State) : Out :=
  .next (subOp s.ax25 (fun s => do
    let v ← readFcs s f
    return { setFcs (fcsByte v x) s with res := .word (fcsByte v x) }) s)

/-- AX25.FCS (R136). -/
def execAx25Fcs (h : BytesArg) (s : State) : Out :=
  .next (subOp s.ax25 (fun s => do
    let l ← readHeader s h
    return { setFcs (fcsReg l) s with res := .fcs (fcsValue l) (fcsBytes (fcsValue l)) }) s)

/-- AX25.ENCAP in slot E2 (R137): the body is handed to FRM.BODY in the latch `encap` (R122; log 15). -/
def doAx25Encap (s : State) : State :=
  slotOp .e2 s.ax25 false (fun s => do
    let p ← s.pb
    let _ ← readAddr s .dest
    return { setFcs (fcsReg (ax25Hdr s.cfg p)) s with encap := some (ax25Encap s.cfg p) }) s

def execAx25Encap (s : State) : Out := .next (doAx25Encap s)

/-! ### Bit stuffing -/

/-- R138: STUFF.BIT(n, b): the bits to emit and the new ONES. -/
def stuffBit (n : BitVec 3) (b : Bit) : List Bit × BitVec 3 :=
  if b then
    if n.toNat + 1 = 5 then ([true, false], 0) else ([true], n + 1)
  else ([false], 0)

/-- The stuffer over a bit sequence from the count `n`: the output and the final ONES (R139). -/
def stuffFrom (n : BitVec 3) : List Bit → List Bit × BitVec 3
  | [] => ([], n)
  | b :: r => ((stuffBit n b).1 ++ (stuffFrom (stuffBit n b).2 r).1, (stuffFrom (stuffBit n b).2 r).2)

/-- R139: AX25.STUFF(bits), the count starting afresh. -/
def stuff (l : List Bit) : List Bit := (stuffFrom 0 l).1

/-- ONES is written (R35). -/
def setOnes (v : BitVec 3) (s : State) : State :=
  { s with ones := v, held := { s.held with ones := true } }

/-- STUFF.BIT (R138). -/
def execStuffBit (n : RegArg 3) (b : Bit) (s : State) : Out :=
  .next (subOp s.ax25 (fun s => do
    let v ← readOnes s n
    return { setOnes (stuffBit v b).2 s with res := .bits (stuffBit v b).1 }) s)

/-- AX25.STUFF in slot E6 (R139). -/
def doAx25Stuff (s : State) : State :=
  slotOp .e6 s.ax25 true (fun s => do
    let l ← s.bb.body
    return { setOnes (stuffFrom 0 l).2 s with bb := { s.bb with body := some (stuff l) } }) s

def execAx25Stuff (s : State) : Out := .next (doAx25Stuff s)

end Sys2Proof.Machine
end

