-- ==== Sys2Proof/Machine/Crc16.lean ====
section
/-! DEFINITION. The CRC-16 generator (spec/42_crc16.md R160 to R170). -/

namespace Sys2Proof.Machine

/-- R162. -/
def crcBit (c : BitVec 16) (b : Bit) : BitVec 16 :=
  if c.getLsbD 15 ^^ b then (c <<< 1) ^^^ crcPoly else c <<< 1

/-- R163: most significant bit first. -/
def crcByte (c : BitVec 16) (x : Byte) : BitVec 16 :=
  [7, 6, 5, 4, 3, 2, 1, 0].foldl (fun c i => crcBit c (x.getLsbD i)) c

/-- The CRC register after the bytes of `l`, from `init` (R164). -/
def crcReg (init : BitVec 16) (l : List Byte) : BitVec 16 := l.foldl crcByte init

/-- R164: CRC16.RUN(s, init). -/
def crcRun (init : BitVec 16) (l : List Byte) : BitVec 16 := crcReg init l ^^^ crcXorOut

/-- R62, R101: high byte, then low byte. -/
def crcBytes (c : BitVec 16) : List Byte := [c.extractLsb' 8 8, c.extractLsb' 0 8]

/-- The CRC register is written (R33). -/
def setCrc (v : BitVec 16) (s : State) : State :=
  { s with crc := v, held := { s.held with crc := true } }

/-- CRC16.INIT (R161). -/
def execCrc16Init (s : State) : Out := .next (subOp s.appendCrc (fun s => some (setCrc crcInit s)) s)

/-- CRC16.BIT (R162). -/
def execCrc16Bit (c : RegArg 16) (b : Bit) (s : State) : Out :=
  .next (subOp s.appendCrc (fun s => do
    let v ← readCrc s c
    return { setCrc (crcBit v b) s with res := .word (crcBit v b) }) s)

/-- CRC16.BYTE (R163). -/
def execCrc16Byte (c : RegArg 16) (x : Byte) (s : State) : Out :=
  .next (subOp s.appendCrc (fun s => do
    let v ← readCrc s c
    return { setCrc (crcByte v x) s with res := .word (crcByte v x) }) s)

/-- CRC16.RUN (R164). -/
def execCrc16Run (d : BytesArg) (init : InitArg) (s : State) : Out :=
  .next (subOp s.appendCrc (fun s => do
    let l ← readFrame s d
    return { setCrc (crcReg (readInit init) l) s with res := .word (crcRun (readInit init) l) }) s)

/-- CRC16.APPEND in slot E3 (R165). -/
def doCrc16Append (s : State) : State :=
  slotOp .e3 s.appendCrc true (fun s => do
    let l ← crcInput s
    return { setCrc (crcReg crcInit l) s with fb := { s.fb with crc := crcBytes (crcRun crcInit l) } }) s

def execCrc16Append (s : State) : Out := .next (doCrc16Append s)

end Sys2Proof.Machine
end

