-- ==== Sys2Proof/Machine/Framer.lean ====
section
/-! DEFINITION. The payload framer (spec/40_framer.md R120 to R125). -/

namespace Sys2Proof.Machine

/-- FRM.PRE in slot E1 (R120): the frame is created fresh. -/
def doFrmPre (s : State) : State :=
  slotOp .e1 true false (fun s => some { s with fb := { FrameBuf.empty with pre := some s.cfg.cr1 } }) s

def execFrmPre (s : State) : Out := .next (doFrmPre s)

/-- FRM.SYNC in slot E1, after FRM.PRE (R121). -/
def doFrmSync (s : State) : State :=
  slotOp .e1 true true (fun s => some { s with fb := { s.fb with sync := some s.cfg.cr2 } }) s

def execFrmSync (s : State) : Out := .next (doFrmSync s)

/-- FRM.BODY in slot E2 (R122): the encapsulator's result when `ax25_format` = 1, else the payload. -/
def doFrmBody (s : State) : State :=
  slotOp .e2 true true (fun s => do
    let d ← if s.ax25 then s.encap else s.pb
    return { s with fb := { s.fb with body := some d } }) s

def execFrmBody (s : State) : Out := .next (doFrmBody s)

end Sys2Proof.Machine
end

