-- ==== Sys2Proof/Machine/Manchester.lean ====
section
/-! DEFINITION. The Manchester line coder (spec/44_manchester.md R190 to R194). -/

namespace Sys2Proof.Machine

/-- R191: MANCH.BIT(b). -/
def manchBit (b : Bit) : List Bit := if b then manchOne else manchZero

/-- `M(s)` of R192. -/
def manchBits (l : List Bit) : List Bit := l.flatMap manchBit

/-- MANCH.BIT (R191). -/
def execManchBit (b : Bit) (s : State) : Out :=
  .next (subOp s.manchester (fun s => some { s with res := .bits (manchBit b) }) s)

/-- MANCH in slot E7 (R192): the PRE span is exempt exactly when `manch_preamble` = 0. -/
def doManch (s : State) : State :=
  slotOp .e7 s.manchester true (fun s => do
    let p ← s.bb.pre
    let y ← s.bb.sync
    let d ← s.bb.body
    let c ← s.bb.crc
    return { s with bb := { s.bb with
      line := some ((if s.manchPreamble then manchBits p else p) ++ manchBits y ++ manchBits d ++ manchBits c) } }) s

def execManch (s : State) : Out := .next (doManch s)

end Sys2Proof.Machine
end

