-- ==== Sys2Proof/Machine/Nrz.lean ====
section
/-! DEFINITION. The NRZ sample mapper (spec/46_nrz.md R210 to R213). -/

namespace Sys2Proof.Machine

/-- R211: NRZ.BIT(b). -/
def nrzBit (b : Bit) : Sample := if b then nrzOne else nrzZero

/-- NRZ.BIT (R211). -/
def execNrzBit (b : Bit) (s : State) : Out :=
  .next (subOp true (fun s => some { s with res := .sample (nrzBit b) }) s)

/-- NRZ in slot E8 (R212). -/
def doNrz (s : State) : State :=
  slotOp .e8 true true (fun s => do
    let l ← s.bb.line
    return { s with sb := { s.sb with s := some (l.map nrzBit) } }) s

def execNrz (s : State) : Out := .next (doNrz s)

end Sys2Proof.Machine
end

