-- ==== Sys2Proof/Machine/Serializer.lean ====
section
/-! DEFINITION. The bit-order serializer (spec/45_serializer.md R200 to R205). -/

namespace Sys2Proof.Machine

/-- R200: SER.BYTE(x, m). -/
def serByte (x : Byte) (m : Bit) : List Bit :=
  if m then [7, 6, 5, 4, 3, 2, 1, 0].map x.getLsbD else [0, 1, 2, 3, 4, 5, 6, 7].map x.getLsbD

/-- `S(span, m)` of R202. -/
def serSpan (m : Bit) (l : List Byte) : List Bit := l.flatMap (serByte · m)

/-- R201: the order bit of the BODY span under the control word `f`. -/
def bodyOrder (f : Byte) : Bit := if flagAx25 f then false else flagMsbFirst f

/-- SER.BYTE (R200). -/
def execSerByte (x : Byte) (m : Bit) (s : State) : Out :=
  .next (subOp true (fun s => some { s with res := .bits (serByte x m) }) s)

/-- SER in slot E5 (R202). -/
def doSer (s : State) : State :=
  slotOp .e5 true true (fun s => do
    let p ← s.fb.pre
    let y ← s.fb.sync
    let d ← s.fb.body
    return { s with bb := { s.bb with
      pre := some (serSpan s.msbFirst p)
      sync := some (serSpan s.msbFirst y)
      body := some (serSpan (bodyOrder s.cfg.cr0) d)
      crc := some (serSpan s.msbFirst s.fb.crc) } }) s

def execSer (s : State) : Out := .next (doSer s)

end Sys2Proof.Machine
end

