-- ==== Sys2Proof/Machine/Settling.lean ====
section
/-! DEFINITION. The settling appender (spec/47_settling.md R215 to R217). -/

namespace Sys2Proof.Machine

/-- R215: `samples ++ rep(0.0, n)`; `none` where the length does not fit LEN_W bits (R246). -/
def settle (n : BitVec 32) (l : List Sample) : Option (List Sample) :=
  if l.length + n.toNat < lenLimit then some (append l (List.replicate n.toNat .zero)) else none

/-- SETTLE in slot E9 (R215). -/
def doSettle (s : State) : State :=
  slotOp .e9 true true (fun s => do
    let l ← s.sb.s
    let l' ← settle s.cfg.cr7 l
    return { s with sb := { s.sb with s := some l' } }) s

def execSettle (s : State) : Out := .next (doSettle s)

end Sys2Proof.Machine
end

