-- ==== Sys2Proof/Machine/Whitening.lean ====
section
/-! DEFINITION. The LFSR whitening engine (spec/43_whitening.md R175 to R184). -/

namespace Sys2Proof.Machine

/-- R177: PN9.STEP(s). -/
def pn9Step (r : BitVec 9) : BitVec 9 :=
  (r >>> 1) ||| ((BitVec.ofBool (r.getLsbD 0 ^^ r.getLsbD 5)).setWidth 9 <<< 8)

/-- `n` steps of the register. -/
def pn9Steps : Nat → BitVec 9 → BitVec 9
  | 0, r => r
  | n + 1, r => pn9Steps n (pn9Step r)

/-- R178: the key byte is LFSR[7:0]. -/
def pn9Key (r : BitVec 9) : Byte := r.setWidth 8

/-- R178: the register after a key byte is taken. -/
def pn9Next (r : BitVec 9) : BitVec 9 := pn9Steps 8 r

/-- R179: PN9_BYTES(n, seed). -/
def pn9Bytes : Nat → BitVec 9 → List Byte
  | 0, _ => []
  | n + 1, r => pn9Key r :: pn9Bytes n (pn9Next r)

/-- The register after `n` key bytes. -/
def pn9After : Nat → BitVec 9 → BitVec 9
  | 0, r => r
  | n + 1, r => pn9After n (pn9Next r)

/-- Bytes XORed with the key bytes from the register value `r` (R180). -/
def whitenFrom (r : BitVec 9) (l : List Byte) : List Byte := List.zipWith (· ^^^ ·) l (pn9Bytes l.length r)

/-- LFSR is written (R34). -/
def setLfsr (v : BitVec 9) (s : State) : State :=
  { s with lfsr := v, held := { s.held with lfsr := true } }

/-- PN9.INIT (R176). -/
def execPn9Init (s : State) : Out := .next (subOp s.whitening (fun s => some (setLfsr pn9Seed s)) s)

/-- PN9.STEP (R177). -/
def execPn9Step (a : RegArg 9) (s : State) : Out :=
  .next (subOp s.whitening (fun s => do
    let r ← readLfsr s a
    return { setLfsr (pn9Step r) s with res := .lfsr (pn9Step r) }) s)

/-- PN9.BYTE (R178). -/
def execPn9Byte (s : State) : Out :=
  .next (subOp s.whitening (fun s => do
    let r ← readLfsr s .reg
    return { setLfsr (pn9Next r) s with res := .byte (pn9Key r) }) s)

/-- One span overwritten in place with itself XORed with the key from `r` (R73, R180). -/
def whitenSpan (r : BitVec 9) (l : List Byte) : Option (List Byte) := memWrite l 0 l.length (whitenFrom r l)

/-- WHITEN in slot E4 (R180): SYNC, BODY, CRC as one continuous sequence, PRE skipped (R175). -/
def doWhiten (s : State) : State :=
  slotOp .e4 s.whitening true (fun s => do
    let y ← s.fb.sync
    let d ← s.fb.body
    let r₁ := pn9After y.length pn9Seed
    let r₂ := pn9After d.length r₁
    let y' ← whitenSpan pn9Seed y
    let d' ← whitenSpan r₁ d
    let c' ← whitenSpan r₂ s.fb.crc
    return { setLfsr (pn9After s.fb.crc.length r₂) s with
      fb := { s.fb with sync := some y', body := some d', crc := c' } }) s

def execWhiten (s : State) : Out := .next (doWhiten s)

end Sys2Proof.Machine
end

