-- ==== Sys2Proof/Machine/Orchestrator.lean ====
section
/-! DEFINITION. The burst tagger, the pipeline orchestrator and the host transactions
(spec/48_burst_orchestrator.md R220 to R236), configuration checks (spec/60_exceptions.md R242 to R258), and reset
(spec/70_reset_and_hazards.md R270). -/

namespace Sys2Proof.Machine

/-! ### Burst tagger -/

/-- R220: SB.LEN, SB.OFF and the tag of the first sample; `none` where the length does not fit LEN_W bits. -/
def burstDesc (cnt : BitVec 64) (l : List Sample) : Option BurstDesc :=
  if l.length < lenLimit then
    some ⟨BitVec.ofNat 32 l.length, cnt,
      if l.length = 0 then none else some ⟨true, BitVec.ofNat 32 l.length, cnt⟩⟩
  else none

/-- TAG in slot E10 (R220). -/
def doTag (s : State) : State :=
  slotOp .e10 true false (fun s => do
    let l ← s.sb.s
    let d ← burstDesc s.sampleCnt l
    return { s with sb := { s.sb with desc := some d } }) s

def execTag (s : State) : Out := .next (doTag s)

/-! ### Hand-off -/

/-- The samples paired with their tags: the first with `t`, every other with none (R220, R230). -/
def tagged (t : Option Tag) : List Sample → List TaggedSample
  | [] => []
  | x :: r => ⟨x, t⟩ :: r.map (fun y => ⟨y, none⟩)

/-- HANDOFF in slot E10, after TAG (R230). -/
def doHandoff (s : State) : State :=
  slotOp .e10 true false (fun s => do
    let l ← s.sb.s
    let d ← s.sb.desc
    let b ← memRead l 0 d.len.toNat
    return { discardEncode s with
      outq := append s.outq (tagged d.tag b)
      sampleCnt := s.sampleCnt + d.len.setWidth 64
      seq := ⟨.idle, .e0⟩
      pushAns := .ok }) s

def execHandoff (s : State) : Out := .next (doHandoff s)

/-! ### One full pipeline run -/

/-- The operations of the pipeline in slot order (R224); each acts only while SEQ stands at its slot, so a disabled one
is passed over (R225). -/
def pipeline : List (State → State) :=
  [doFrmPre, doFrmSync, doAx25Encap, doFrmBody, doCrc16Append, doWhiten, doSer, doAx25Stuff, doManch, doNrz, doSettle,
    doTag, doHandoff]

/-- The pipeline run on a state (R224). -/
def runPipeline (s : State) : State := pipeline.foldl (fun t f => f t) s

/-- ENCODE (R224): one full pipeline run, started where PDU.ACCEPT leaves SEQ; elsewhere not taken (log 12). -/
def execEncode (s : State) : Out := .next (if s.seq = ⟨.encoding, .e1⟩ then runPipeline s else s)

/-! ### Configuration -/

/-- R242: 'A'..'Z' or '0'..'9'. -/
def callCharOk (c : Byte) : Bool :=
  (0x41#8 ≤ c && c ≤ 0x5A#8) || (0x30#8 ≤ c && c ≤ 0x39#8)

/-- R242: every trailing 0x20 removed. -/
def stripPad (t : List Byte) : List Byte := (t.reverse.dropWhile (· == ax25Pad)).reverse

/-- R242: the first failing check of a callsign; `which` is 0 for the destination, 1 for the source. -/
def checkCallsign (which : Byte) (t : List Byte) : Option (BitVec 4 × Byte) :=
  if 6 < t.length then some (causeCallsignLen, which)
  else if stripPad t = [] then some (causeCallsignLen, which)
  else if (stripPad t).all callCharOk then none
  else some (causeCallsignChar, which)

/-- R242: `stored <- t' ++ rep(0x20, 6 - L')`. -/
def storeCallsign (t : List Byte) : Callsign :=
  let p := stripPad t
  ⟨p.getD 0 ax25Pad, p.getD 1 ax25Pad, p.getD 2 ax25Pad, p.getD 3 ax25Pad, p.getD 4 ax25Pad, p.getD 5 ax25Pad⟩

/-- R243. -/
def checkSsid (which n : Byte) : Option (BitVec 4 × Byte) :=
  if 15#8 < n then some (causeSsidRange, which) else none

/-- The address checks in the order of R249. An absent group is a destination callsign that is empty (log 10). -/
def checkAddr : Option AddrGroup → Option (BitVec 4 × Byte)
  | none => some (causeCallsignLen, 0)
  | some g =>
    (checkCallsign 0 g.dest).or ((checkSsid 0 g.dssid).or ((checkCallsign 1 g.src).or (checkSsid 1 g.sssid)))

/-- R258: a length against a capacity, `none` unbounded. -/
def exceeds (n : Nat) : Option Nat → Bool
  | none => false
  | some m => m < n

/-- R242, R243: whether callsigns and SSIDs are checked. -/
def addrChecked (p : Params) (v : CfgValues) : Bool := flagAx25 v.flags || p.addrCheckAlways

/-- R249 (a): the first failing check of the supplied configuration, with its cause and info. -/
def checkCfg (p : Params) (v : CfgValues) : Option (BitVec 4 × Byte) :=
  if v.flags &&& 0xC0#8 ≠ 0x00#8 then some (causeFlagsReserved, v.flags)
  else if exceeds v.preamble.length p.maxPre then some (causeCfgSize, 0)
  else if exceeds v.sync.length p.maxSync then some (causeCfgSize, 1)
  else if flagAx25 v.flags && v.sync.isEmpty then some (causeSyncEmpty, 0)
  else if addrChecked p v then checkAddr v.addr
  else none

/-- R227: CR0 to CR7 from the supplied values. Unchecked addresses are not stored (R242; log 11). -/
def loadCfg (checked : Bool) (v : CfgValues) (g : CfgRegs) : CfgRegs :=
  let g' := { g with cr0 := v.flags, cr1 := v.preamble, cr2 := v.sync, cr7 := v.settling }
  match checked, v.addr with
  | true, some a =>
    { g' with cr3 := storeCallsign a.dest, cr4 := a.dssid, cr5 := storeCallsign a.src, cr6 := a.sssid }
  | _, _ => g'

/-- CFG.LOAD (R227): part of leaving reset; in any other phase the port is not sampled (R229, U35; log 13). -/
def execCfgLoad (s : State) : Out :=
  .next (if s.seq.phase = .reset then
    match checkCfg s.par s.cfgPort with
    | some e => raiseConfigurationError e.1 e.2 s
    | none =>
      { s with
        cfg := loadCfg (addrChecked s.par s.cfgPort) s.cfgPort s.cfg
        held := { s.held with addr := addrChecked s.par s.cfgPort }
        seq := ⟨.idle, .e0⟩ }
  else s)

/-! ### Host transactions -/

/-- RESET (R270): every state element as right after reset; the host's inputs and the parameters stay. CFG.LOAD is the
core's next move (log 26). -/
def execReset (s : State) : Out :=
  .next { State.reset with cfgPort := s.cfgPort, host := s.host, par := s.par }

/-- PDU.ACCEPT (R228): taken only in phase IDLE; a push in any other phase changes nothing (R232; log 13). -/
def execPduAccept (p : List Byte) (s : State) : Out :=
  .next (if s.seq.phase = .idle then
    if exceeds p.length s.par.maxPdu then raiseEncodingError causePduTooLarge 0 s
    else if p.length = 0 ∧ s.par.forbidEmptyPdu then raiseEncodingError causePduEmpty 0 s
    else { discardEncode s with pb := some p, seq := ⟨.encoding, .e1⟩, pushAns := .pending }
  else s)

/-- SAMPLE.POP (R231): in any phase; a pop of an empty OUTQ changes nothing (U37; log 13). -/
def execSamplePop (s : State) : Out :=
  .next (match s.outq with
    | [] => s
    | x :: r => { s with outq := r, sampOut := some x })

end Sys2Proof.Machine
end

