-- ==== Sys2Proof/Machine/Dispatch.lean ====
section
/-! DEFINITION. exec: one arm per operation of spec/30_encoding.md R98. -/

namespace Sys2Proof.Machine

def exec (i : Instr) (s : State) : Host.Outcome State Fault Refusal :=
  match i with
  | .reset => Sys2Proof.Machine.execReset s
  | .cfgLoad => Sys2Proof.Machine.execCfgLoad s
  | .pduAccept p => Sys2Proof.Machine.execPduAccept p s
  | .encode => Sys2Proof.Machine.execEncode s
  | .frmPre => Sys2Proof.Machine.execFrmPre s
  | .frmSync => Sys2Proof.Machine.execFrmSync s
  | .ax25Encap => Sys2Proof.Machine.execAx25Encap s
  | .ax25Addr a last => Sys2Proof.Machine.execAx25Addr a last s
  | .ax25Hdr p => Sys2Proof.Machine.execAx25Hdr p s
  | .fcsInit => Sys2Proof.Machine.execFcsInit s
  | .fcsBit f b => Sys2Proof.Machine.execFcsBit f b s
  | .fcsByte f x => Sys2Proof.Machine.execFcsByte f x s
  | .ax25Fcs h => Sys2Proof.Machine.execAx25Fcs h s
  | .frmBody => Sys2Proof.Machine.execFrmBody s
  | .crc16Append => Sys2Proof.Machine.execCrc16Append s
  | .crc16Init => Sys2Proof.Machine.execCrc16Init s
  | .crc16Bit c b => Sys2Proof.Machine.execCrc16Bit c b s
  | .crc16Byte c x => Sys2Proof.Machine.execCrc16Byte c x s
  | .crc16Run d init => Sys2Proof.Machine.execCrc16Run d init s
  | .whiten => Sys2Proof.Machine.execWhiten s
  | .pn9Init => Sys2Proof.Machine.execPn9Init s
  | .pn9Step r => Sys2Proof.Machine.execPn9Step r s
  | .pn9Byte => Sys2Proof.Machine.execPn9Byte s
  | .ser => Sys2Proof.Machine.execSer s
  | .serByte x m => Sys2Proof.Machine.execSerByte x m s
  | .ax25Stuff => Sys2Proof.Machine.execAx25Stuff s
  | .stuffBit n b => Sys2Proof.Machine.execStuffBit n b s
  | .manch => Sys2Proof.Machine.execManch s
  | .manchBit b => Sys2Proof.Machine.execManchBit b s
  | .nrz => Sys2Proof.Machine.execNrz s
  | .nrzBit b => Sys2Proof.Machine.execNrzBit b s
  | .settle => Sys2Proof.Machine.execSettle s
  | .tag => Sys2Proof.Machine.execTag s
  | .handoff => Sys2Proof.Machine.execHandoff s
  | .samplePop => Sys2Proof.Machine.execSamplePop s

end Sys2Proof.Machine
end

