-- ==== Sys2Proof/Machine/Sequencer.lean ====
section
/-! DEFINITION. Where the next operation comes from: a transaction of the host, the sequencer's own choice
(spec/10_state.md R30, spec/48_burst_orchestrator.md R224 to R229), or a word given for itself. -/

namespace Sys2Proof.Machine

/-- The host's next move is used up. -/
def hostTaken (s : State) : State := { s with host := s.host.tail }

/-- What the sequencer does when the host does nothing: an operation, nothing (the core waits), or no rule. -/
inductive CoreMove where
  | run (i : Instr)
  | idle
  | illegal
deriving DecidableEq, Repr

/-- The sequencer's own operation: in phase RESET CFG.LOAD (R270), in phase ENCODING the next operation of the slot
SEQ stands at, the first of a slot until its output is written (R224; log 14), else none. -/
def coreMove (s : State) : CoreMove :=
  match s.seq.phase with
  | .reset => .run .cfgLoad
  | .idle => .idle
  | .cfgerr => .idle
  | .encoding =>
    match s.seq.slot with
    | .e0 => .illegal
    | .e1 => if s.fb.pre.isNone then .run .frmPre else .run .frmSync
    | .e2 => if s.ax25 && s.encap.isNone then .run .ax25Encap else .run .frmBody
    | .e3 => .run .crc16Append
    | .e4 => .run .whiten
    | .e5 => .run .ser
    | .e6 => .run .ax25Stuff
    | .e7 => .run .manch
    | .e8 => .run .nrz
    | .e9 => .run .settle
    | .e10 => if s.sb.desc.isNone then .run .tag else .run .handoff

/-- One move of the core. -/
def coreStep (s : State) : Out :=
  match coreMove s with
  | .run i => exec i s
  | .idle => .next s
  | .illegal => .fault .seqIllegal

/-- A move of the host: a transaction of R229, or the core's own move where the host does nothing. A transaction that is
not enabled is not taken by the rule of its operation (log 13). -/
def hostMove (m : HostMove) (s : State) : Out :=
  match m with
  | .wait => coreStep s
  | .reset => exec .reset s
  | .drive v => .next { s with cfgPort := v }
  | .push p => exec (.pduAccept p) s
  | .pop => exec .samplePop s
  | .status => .next { s with statOut := some s.status }

/-! ### An operation by itself (R111; log 31) -/

/-- The operation word given for itself is used up. -/
def wordTaken (s : State) : State := { s with word := none }

/-- An operation word is decoded and run. -/
def wordStep (l : List Byte) (s : State) : Out :=
  match decode l with
  | .ok i => exec i s
  | .reject e => .refused (.badWord e)

/-- A word of `nbits` bits is given for itself, before everything else. -/
def giveWord (s : State) (nbits w : Nat) : State := { s with word := some (wordBytes ((nbits + 7) / 8) w) }

end Sys2Proof.Machine
end

