-- ==== Sys2Proof/Machine/Step.lean ====
section
/-! DEFINITION. One step of the machine: the host's next move, or the core's own (log 4); before both, an operation word
that is given for itself (log 31). -/

namespace Sys2Proof.Machine

/-- One step. -/
def step (s : State) : Host.Outcome State Fault Refusal :=
  match s.word with
  | some l => wordStep l (wordTaken s)
  | none =>
    match s.host with
    | [] => coreStep s
    | m :: _ => hostMove m (hostTaken s)

/-- `s` with the table word `w` of `nbits` bits as what the next step runs. -/
def State.withFetchWord (s : State) (nbits w : Nat) : State := giveWord s nbits w

end Sys2Proof.Machine
end

