-- ==== Sys2Proof/Machine/Script.lean ====
section
/-! DEFINITION. The host transactions and pseudo-operations of spec/30_encoding.md R108 to R110 as lists of host moves
(log 30). -/

namespace Sys2Proof.Machine

/-- The control word of R91 from its six fields. -/
def ctrlWord (c w m o a p : Bit) : Byte :=
  0#2 ++ BitVec.ofBool p ++ BitVec.ofBool a ++ BitVec.ofBool o ++ BitVec.ofBool m ++ BitVec.ofBool w ++ BitVec.ofBool c

/-- `CFG` (R108). -/
def hostCfg (v : CfgValues) : List HostMove := [.drive v]

/-- `RESET` (R109): R270, then the core's move for CFG.LOAD. -/
def hostReset : List HostMove := [.reset, .wait]

/-- `PUSH` (R109): PDU.ACCEPT, then the moves in which the core runs ENCODE, at most thirteen (log 18). -/
def hostPush (p : List Byte) : List HostMove := .push p :: List.replicate pipeline.length .wait

/-- `POP n` (R109). -/
def hostPop (n : Nat) : List HostMove := List.replicate n .pop

/-- `MAKE` (R110): `CFG` with `manpre=1`, then `RESET`. -/
def hostMake (preamble sync : List Byte) (c w m o a : Bit) (addr : Option AddrGroup) (settling : BitVec 32) :
    List HostMove :=
  hostCfg ⟨ctrlWord c w m o a true, preamble, sync, addr, settling⟩ ++ hostReset

/-- `SEND` (R110): `PUSH`, then `POP` of the burst where the push is answered OK; `n` is the length of that burst. -/
def hostSend (p : List Byte) (answer : PushAnswer) (n : Nat) : List HostMove :=
  hostPush p ++ if answer = .ok then hostPop n else []

/-- `DRAIN` (R110): `POP` until OUTQ is empty. -/
def hostDrain (s : State) : List HostMove := hostPop s.outq.length

/-- The host makes the moves `l` after those it was going to make. -/
def withMoves (s : State) (l : List HostMove) : State := { s with host := s.host ++ l }

end Sys2Proof.Machine
end

