-- ==== Sys2Proof/Safety.lean ====
section
/-! DEFINITION. The terms claims are stated in: which states are legal, when a run is over, and the closed form of one
encode (spec/48_burst_orchestrator.md R222, R224, R235). -/

namespace Sys2Proof.Machine

/-! ### Legal states -/

/-- R30: a slot E1 to E10 in phase ENCODING, E0 in every other phase. -/
def seqLegal (s : State) : Bool := (s.seq.phase == .encoding) == (s.seq.slot != .e0)

/-- The configuration has been loaded: phase IDLE or ENCODING (R226, R227). -/
def State.configured (s : State) : Bool := s.seq.phase == .idle || s.seq.phase == .encoding

/-- R29: no illegal configuration is ever held. -/
def cfgLegal (s : State) : Prop :=
  s.configured = true →
    reservedClear s.cfg.cr0 = true ∧
    (s.ax25 = true → s.cfg.cr2 ≠ [] ∧ s.held.addr = true) ∧
    (∀ m, s.par.maxPre = some m → s.cfg.cr1.length ≤ m) ∧
    (∀ m, s.par.maxSync = some m → s.cfg.cr2.length ≤ m) ∧
    (s.held.addr = true →
      s.cfg.cr3.legal = true ∧ s.cfg.cr5.legal = true ∧ ssidLegal s.cfg.cr4 = true ∧ ssidLegal s.cfg.cr6 = true)

/-- The values ERR can show (R31, R241, R245): none, a ConfigurationError in phase CFGERR, or an EncodingError. -/
def errLegal (s : State) : Prop :=
  (s.seq.phase = .reset → s.err = 0x0000#16) ∧
  (errCfg s.err = true ↔ s.seq.phase = .cfgerr) ∧
  (errClass s.err = 0#2 → s.err = 0x0000#16) ∧
  (errClass s.err = clsCfg → errCfg s.err = true ∧ errEnc s.err = false ∧
    1#4 ≤ errCause s.err ∧ errCause s.err ≤ 6#4) ∧
  (errClass s.err = clsEnc → errCfg s.err = false ∧ errEnc s.err = true ∧
    1#4 ≤ errCause s.err ∧ errCause s.err ≤ 3#4) ∧
  errClass s.err ≠ 3#2

/-- R231: the stream offset of the element at place `j` of OUTQ. -/
def streamOffset (s : State) (j : Nat) : BitVec 64 :=
  s.sampleCnt - BitVec.ofNat 64 s.outq.length + BitVec.ofNat 64 j

/-- R221, R231: every tag in OUTQ marks the start of a burst and carries its own stream offset. -/
def tagsLegal (s : State) : Prop :=
  ∀ j x t, s.outq[j]? = some x → x.tag = some t → t.sob = true ∧ t.offset = streamOffset s j

/-- What TAG has written agrees with SAMPLE_CNT and with the samples in SB (R220). -/
def descLegal (s : State) : Prop :=
  ∀ d, s.sb.desc = some d →
    d.off = s.sampleCnt ∧ (∀ t, d.tag = some t → t.sob = true ∧ t.burstLen = d.len ∧ t.offset = d.off)

/-! ### The end of a run -/

/-- The move is a push. -/
def HostMove.isPush : HostMove → Bool
  | .push _ => true
  | .wait | .reset | .drive _ | .pop | .status => false

/-- R235: a run is over when every push has been answered (none is still to be made, none is pending), the phase is IDLE
and OUTQ is empty. DESIGN CHOICE (log 32): a push made outside phase IDLE, which is not taken and never gets an answer
(R232, R275), and one that a reset cut short count as settled once their move is used up. -/
def State.runOver (s : State) : Bool :=
  s.host.all (!·.isPush) && s.word.isNone && s.pushAns != .pending && s.seq.phase == .idle && s.outq.isEmpty

/-! ### The closed form of one encode -/

/-- `bytes(FB)`: the frame as a byte sequence, spans in frame order (R37, R92). -/
def FrameBuf.bytes (b : FrameBuf) : List Byte := b.pre.getD [] ++ b.sync.getD [] ++ b.body.getD [] ++ b.crc

/-- `B` of R224. -/
def bodyOf (g : CfgRegs) (p : List Byte) : List Byte := if flagAx25 g.cr0 then ax25Encap g p else p

/-- `C` of R224. -/
def crcSpanOf (g : CfgRegs) (p : List Byte) : List Byte :=
  if flagAppendCrc g.cr0 then crcBytes (crcRun crcInit (g.cr2 ++ bodyOf g p)) else []

/-- `SYNC ++ B ++ C`, whitened as one sequence where `whitening` is set (R224, R180). -/
def dataOf (g : CfgRegs) (p : List Byte) : List Byte :=
  let d := g.cr2 ++ bodyOf g p ++ crcSpanOf g p
  if flagWhitening g.cr0 then whitenFrom pn9Seed d else d

/-- `S'`, `B'`, `C'` of R224: the spans keep their lengths. -/
def syncOut (g : CfgRegs) (p : List Byte) : List Byte := (dataOf g p).take g.cr2.length
def bodyOut (g : CfgRegs) (p : List Byte) : List Byte := ((dataOf g p).drop g.cr2.length).take (bodyOf g p).length
def crcOut (g : CfgRegs) (p : List Byte) : List Byte := (dataOf g p).drop (g.cr2.length + (bodyOf g p).length)

/-- `bBODY` of R224 before stuffing. -/
def bodyBits (g : CfgRegs) (p : List Byte) : List Bit := serSpan (bodyOrder g.cr0) (bodyOut g p)

/-- `bBODY` of R224. -/
def bodyLine (g : CfgRegs) (p : List Byte) : List Bit :=
  if flagAx25 g.cr0 then stuff (bodyBits g p) else bodyBits g p

/-- `LINE` of R224. -/
def lineOf (g : CfgRegs) (p : List Byte) : List Bit :=
  let o := flagMsbFirst g.cr0
  let pre := serSpan o g.cr1
  let rest := serSpan o (syncOut g p) ++ bodyLine g p ++ serSpan o (crcOut g p)
  if flagManchester g.cr0 then (if flagManchPreamble g.cr0 then manchBits pre else pre) ++ manchBits rest
  else pre ++ rest

/-- `SB.S` of R224. -/
def burstOf (g : CfgRegs) (p : List Byte) : List Sample :=
  (lineOf g p).map nrzBit ++ List.replicate g.cr7.toNat .zero

/-- The tag on the first sample of a burst of `n` samples that starts at stream offset `off` (R220, R223). -/
def burstTag (n : Nat) (off : BitVec 64) : Option Tag :=
  if n = 0 then none else some ⟨true, BitVec.ofNat 32 n, off⟩

/-- The number of stuffed zeros, `k` of R222. -/
def stuffedZeros (g : CfgRegs) (p : List Byte) : Nat := (bodyLine g p).length - (bodyBits g p).length

/-- R222: `N_line` from the configuration, PDU_LEN and `k`. -/
def lineLenFormula (g : CfgRegs) (pduLen k : Nat) : Nat :=
  let nPre := 8 * g.cr1.length
  let nRest := 8 * g.cr2.length + 8 * (pduLen + if flagAx25 g.cr0 then 18 else 0) + k +
    if flagAppendCrc g.cr0 then 16 else 0
  (if flagManchester g.cr0 && flagManchPreamble g.cr0 then 2 else 1) * nPre +
    (if flagManchester g.cr0 then 2 else 1) * nRest

/-! ### Inverses that properties speak of -/

/-- DESTUFF of R143: drop the bit that follows every run of five 1 bits; `n` is the run so far. -/
def destuffFrom (n : Nat) : List Bit → List Bit
  | [] => []
  | b :: r =>
    if n = 5 then destuffFrom 0 r
    else b :: destuffFrom (if b then n + 1 else 0) r

def destuff (l : List Bit) : List Bit := destuffFrom 0 l

end Sys2Proof.Machine
end

