-- ==== Sys2Proof/Certificates/Slice0/Obligations.lean ====
section
/-! DEFINITION. The statements for the provers, from the numbered rules of spec/. -/

namespace Sys2Proof.Spec

open Sys2Proof.Machine

/-- Operations run one after the other, stopping at the first that does not go on. -/
def runAll : List Instr → State → Out
  | [], s => .next s
  | i :: r, s =>
    match exec i s with
    | .next t => runAll r t
    | .fault e => .fault e
    | .refused e => .refused e

/-- R242: a callsign that CFG.LOAD accepts. -/
def callsignValid (t : List Byte) : Prop :=
  t.length ≤ 6 ∧ stripPad t ≠ [] ∧
    ∀ c ∈ stripPad t, (0x41 ≤ c.toNat ∧ c.toNat ≤ 0x5A) ∨ (0x30 ≤ c.toNat ∧ c.toNat ≤ 0x39)

/-- R242: six bytes, the characters and then pads. -/
def padded (t : List Byte) : List Byte := stripPad t ++ List.replicate (6 - (stripPad t).length) 0x20#8

/-- R242 to R244, R258: a configuration that CFG.LOAD accepts. -/
def cfgValid (p : Params) (v : CfgValues) : Prop :=
  v.flags &&& 0xC0#8 = 0x00#8 ∧
  (∀ m, p.maxPre = some m → v.preamble.length ≤ m) ∧
  (∀ m, p.maxSync = some m → v.sync.length ≤ m) ∧
  (v.flags.getLsbD 4 = true → v.sync ≠ []) ∧
  (v.flags.getLsbD 4 = true ∨ p.addrCheckAlways = true →
    ∃ a, v.addr = some a ∧ callsignValid a.dest ∧ a.dssid.toNat ≤ 15 ∧ callsignValid a.src ∧ a.sssid.toNat ≤ 15)

/-- R242: the callsign is too long, or empty once its trailing spaces are removed. -/
def callsignLenBad (t : List Byte) : Bool := 6 < t.length || (stripPad t).isEmpty

/-- R242: some character before the trailing spaces is neither 'A'..'Z' nor '0'..'9'. -/
def callsignCharBad (t : List Byte) : Bool :=
  (stripPad t).any fun c => !((0x41 ≤ c.toNat && c.toNat ≤ 0x5A) || (0x30 ≤ c.toNat && c.toNat ≤ 0x39))

/-- R249 (a): the checks of CFG.LOAD in their order, each with its cause and info (R241). An address group that is left out
counts as one whose callsigns are empty: the model's choice (log 10). -/
def checksInOrder (p : Params) (v : CfgValues) : List (Bool × BitVec 4 × Byte) :=
  let a := v.addr.getD ⟨[], 0, [], 0⟩
  let checked := v.flags.getLsbD 4 || p.addrCheckAlways
  [(v.flags &&& 0xC0#8 != 0x00#8, 6, v.flags),
   (p.maxPre.any (· < v.preamble.length), 5, 0),
   (p.maxSync.any (· < v.sync.length), 5, 1),
   (v.flags.getLsbD 4 && v.sync.isEmpty, 4, 0),
   (checked && callsignLenBad a.dest, 1, 0),
   (checked && callsignCharBad a.dest, 2, 0),
   (checked && decide (15 < a.dssid.toNat), 3, 0),
   (checked && callsignLenBad a.src, 1, 1),
   (checked && callsignCharBad a.src, 2, 1),
   (checked && decide (15 < a.sssid.toNat), 3, 1)]

/-- R31: ERR shows an error of this class, cause and info. -/
def errShows (e : BitVec 16) (cls : BitVec 2) (cause : BitVec 4) (info : Byte) : Prop :=
  errClass e = cls ∧ errCause e = cause ∧ errInfo e = info

/-- R248, R254: `t` is `s` after an EncodingError: the PDU and all that is local to the encode dropped, nothing put out,
the phase IDLE, the push answered with the error, `enc_err` set; everything else as before. -/
def encodingErrorFrom (s t : State) (cause : BitVec 4) (info : Byte) : Prop :=
  errEnc t.err = true ∧ errCfg t.err = errCfg s.err ∧ errShows t.err 2 cause info ∧
  t = { discardEncode s with err := t.err, seq := ⟨.idle, .e0⟩, pushAns := .error 2 cause }

/-- The next bit sequence of the CRC register (R162, as a shift register). -/
def crcBitAt (c : BitVec 16) (b : Bit) (i : Nat) : Bool :=
  let fb := c.getLsbD 15 ^^ b
  if i = 0 then fb else if i = 5 ∨ i = 12 then c.getLsbD (i - 1) ^^ fb else c.getLsbD (i - 1)

/-- The next bit sequence of the FCS register (R134): shift right, taps of 0x8408 at bits 15, 10 and 3. -/
def fcsBitAt (f : BitVec 16) (b : Bit) (i : Nat) : Bool :=
  let fb := f.getLsbD 0 ^^ b
  if i = 15 then fb else if i = 10 ∨ i = 3 then f.getLsbD (i + 1) ^^ fb else f.getLsbD (i + 1)

/-- The next bit sequence of the whitening register (R177). -/
def pn9BitAt (r : BitVec 9) (i : Nat) : Bool :=
  if i = 8 then r.getLsbD 0 ^^ r.getLsbD 5 else r.getLsbD (i + 1)

/-- R225 for the slot after the framer, the CRC and the whitening: the first of these that runs. -/
def slotFrom3 (s : State) : Slot := if s.appendCrc then .e3 else if s.whitening then .e4 else .e5
def slotFrom4 (s : State) : Slot := if s.whitening then .e4 else .e5
def slotFrom6 (s : State) : Slot := if s.ax25 then .e6 else if s.manchester then .e7 else .e8
def slotFrom7 (s : State) : Slot := if s.manchester then .e7 else .e8

/-- What an encode of the payload `p` needs: PDU.ACCEPT has left SEQ at (ENCODING, E1) with `p` in PB, and in AX.25 mode
the address registers hold values (R228, R242). -/
def readyToEncode (s : State) (p : List Byte) : Prop :=
  s.seq = ⟨.encoding, .e1⟩ ∧ s.pb = some p ∧ (s.ax25 = true → s.held.addr = true)

/-- The length of the burst of `p` fits LEN_W bits (R11, R215). -/
def fits (s : State) (p : List Byte) : Prop := (lineOf s.cfg p).length + s.cfg.cr7.toNat < 2 ^ 32

/-- `n` moves of the core with the host silent. -/
def coreRun : Nat → State → Out
  | 0, s => .next s
  | n + 1, s =>
    match step s with
    | .next t => coreRun n t
    | .fault e => .fault e
    | .refused e => .refused e

/-- The operations the sequencer runs by itself from `s`, for at most `n` moves. -/
def coreTrace : Nat → State → List Instr
  | 0, _ => []
  | n + 1, s =>
    match coreMove s with
    | .run i =>
      match exec i s with
      | .next t => i :: coreTrace n t
      | .fault _ => [i]
      | .refused _ => [i]
    | .idle => []
    | .illegal => []

/-- The phase changes of the table of R226, each with the event that makes it: `reset` for a reset request. -/
def phaseMayGo : Phase → Phase → Bool
  | .reset, .idle => true
  | .reset, .cfgerr => true
  | .idle, .encoding => true
  | .encoding, .idle => true
  | _, .reset => true
  | a, b => a == b

/-- The operation is enabled and reads a working register, a buffer, or an operand that holds no value in this encode; a
slot's operation reads only while SEQ stands at its slot (log 12). The operations left out read none: SEQ, CR0 to CR2, CR7
and OUTQ always hold a value (R46). -/
def readsUnwritten (s : State) : Instr → Prop
  | .ax25Encap => s.seq.slot = .e2 ∧ s.ax25 = true ∧ (s.pb = none ∨ s.held.addr = false)
  | .ax25Addr a _ => s.ax25 = true ∧ (a = .dest ∨ a = .src) ∧ s.held.addr = false
  | .ax25Hdr p => s.ax25 = true ∧ ((p = .own ∧ s.pb = none) ∨ s.held.addr = false)
  | .fcsBit f _ => s.ax25 = true ∧ f = .reg ∧ s.held.fcs = false
  | .fcsByte f _ => s.ax25 = true ∧ f = .reg ∧ s.held.fcs = false
  | .ax25Fcs h => s.ax25 = true ∧ h = .own ∧ ∀ l, s.res ≠ .bytes l
  | .frmBody => s.seq.slot = .e2 ∧ (if s.ax25 then s.encap else s.pb) = none
  | .crc16Append => s.seq.slot = .e3 ∧ s.appendCrc = true ∧ (s.fb.sync = none ∨ s.fb.body = none)
  | .crc16Bit c _ => s.appendCrc = true ∧ c = .reg ∧ s.held.crc = false
  | .crc16Byte c _ => s.appendCrc = true ∧ c = .reg ∧ s.held.crc = false
  | .crc16Run d _ => s.appendCrc = true ∧ d = .own ∧ (s.fb.sync = none ∨ s.fb.body = none)
  | .whiten => s.seq.slot = .e4 ∧ s.whitening = true ∧ (s.fb.sync = none ∨ s.fb.body = none)
  | .pn9Step r => s.whitening = true ∧ r = .reg ∧ s.held.lfsr = false
  | .pn9Byte => s.whitening = true ∧ s.held.lfsr = false
  | .ser => s.seq.slot = .e5 ∧ (s.fb.pre = none ∨ s.fb.sync = none ∨ s.fb.body = none)
  | .ax25Stuff => s.seq.slot = .e6 ∧ s.ax25 = true ∧ s.bb.body = none
  | .stuffBit n _ => s.ax25 = true ∧ n = .reg ∧ s.held.ones = false
  | .manch => s.seq.slot = .e7 ∧ s.manchester = true ∧
      (s.bb.pre = none ∨ s.bb.sync = none ∨ s.bb.body = none ∨ s.bb.crc = none)
  | .nrz => s.seq.slot = .e8 ∧ s.bb.line = none
  | .settle => s.seq.slot = .e9 ∧ s.sb.s = none
  | .tag => s.seq.slot = .e10 ∧ s.sb.s = none
  | .handoff => s.seq.slot = .e10 ∧
      (s.sb.s = none ∨ s.sb.desc = none ∨ ∃ l d, s.sb.s = some l ∧ s.sb.desc = some d ∧ l.length < d.len.toNat)
  | .reset | .cfgLoad | .pduAccept _ | .encode | .frmPre | .frmSync | .fcsInit | .crc16Init | .pn9Init | .serByte _ _
  | .manchBit _ | .nrzBit _ | .samplePop => False

/-- The legality of a state: SEQ, ERR, the configuration and the stream (R29, R30, R31, R220, R231). -/
def Legal (s : State) : Prop := seqLegal s = true ∧ errLegal s ∧ cfgLegal s ∧ tagsLegal s ∧ descLegal s

end Sys2Proof.Spec

open Sys2Proof Sys2Proof.Machine Sys2Proof.Spec

/-! ### Reset and construction -/

/-- RESET (R270, R45, R271, R287): the values of the table, unpopped samples lost, nothing kept but port `cfg`, the host's
moves and the machine's parameters, which all stay, and CFG.LOAD, on the values present on that port, as the core's next
move. That CFG.LOAD is a move of its own and that these inputs stay is the model's (logs 4, 5, 26); the fields that show the
ports and the latches are the model's too (logs 15, 16, 17, 31). -/
def Obligations.ResetLeavesResetValues : Prop :=
  ∀ s : State, ∃ t, exec .reset s = .next t ∧
    t.seq = ⟨.reset, .e0⟩ ∧ t.err = 0x0000#16 ∧ t.sampleCnt = 0 ∧ t.pb = none ∧
    t.fb = ⟨none, none, none, []⟩ ∧ t.bb = ⟨none, none, none, none, none⟩ ∧ t.sb = ⟨none, none⟩ ∧ t.outq = [] ∧
    t.held = ⟨false, false, false, false, false⟩ ∧ t.encap = none ∧ t.res = .nothing ∧ t.pushAns = .none ∧
    t.sampOut = none ∧ t.statOut = none ∧ t.word = none ∧
    t.cfgPort = s.cfgPort ∧ t.host = s.host ∧ t.par = s.par ∧
    (∀ u : State, u.cfgPort = s.cfgPort → u.host = s.host → u.par = s.par → exec .reset u = .next t) ∧
    (s.host = [] → step t = exec .cfgLoad t)

/-- CFG.LOAD of a valid configuration (R227, R242): CR0, CR1, CR2, CR7 as supplied, checked addresses padded with 0x20,
phase IDLE, and nothing else changed. That unchecked addresses are not stored is the model's reading (log 11). -/
def Obligations.ConstructionLoadsTheConfiguration : Prop :=
  ∀ s : State, s.seq.phase = .reset → cfgValid s.par s.cfgPort →
    ∃ t, exec .cfgLoad s = .next t ∧
      t = { s with cfg := t.cfg, held := { s.held with addr := s.cfgPort.flags.getLsbD 4 || s.par.addrCheckAlways },
                   seq := ⟨.idle, .e0⟩ } ∧
      t.cfg.cr0 = s.cfgPort.flags ∧ t.cfg.cr1 = s.cfgPort.preamble ∧ t.cfg.cr2 = s.cfgPort.sync ∧
      t.cfg.cr7 = s.cfgPort.settling ∧
      (∀ a, s.cfgPort.addr = some a → (s.cfgPort.flags.getLsbD 4 || s.par.addrCheckAlways) = true →
        t.cfg.cr3.toList = padded a.dest ∧ t.cfg.cr4 = a.dssid ∧
        t.cfg.cr5.toList = padded a.src ∧ t.cfg.cr6 = a.sssid) ∧
      ((s.cfgPort.flags.getLsbD 4 || s.par.addrCheckAlways) = false →
        t.cfg.cr3 = s.cfg.cr3 ∧ t.cfg.cr4 = s.cfg.cr4 ∧ t.cfg.cr5 = s.cfg.cr5 ∧ t.cfg.cr6 = s.cfg.cr6)

/-- CFG.LOAD of an invalid configuration (R227, R241 to R244, R247, R249, R258): the first failing check in the order of
R249 is reported, the phase is CFGERR, and nothing but ERR and SEQ is written. What an address group left out shows where
addresses are checked is the model's choice (log 10). -/
def Obligations.ConfigurationErrorsInOrder : Prop :=
  ∀ (s : State) (e : Bool × BitVec 4 × Byte), s.seq.phase = .reset →
    (checksInOrder s.par s.cfgPort).find? (·.1) = some e →
    ∃ t, exec .cfgLoad s = .next t ∧ t = { s with err := t.err, seq := ⟨.cfgerr, .e0⟩ } ∧
      errCfg t.err = true ∧ errEnc t.err = errEnc s.err ∧ errShows t.err 1 e.2.1 e.2.2

/-- A transaction that is not enabled is not taken and changes nothing: CFG.LOAD outside phase RESET (R229), a push
outside phase IDLE (R232, R275), a pop of an empty OUTQ (R231); in phase CFGERR with OUTQ empty only RESET does anything
(R247). -/
def Obligations.DisabledTransactionsChangeNothing : Prop :=
  ∀ (s : State) (p : List Byte),
    (s.seq.phase ≠ .reset → exec .cfgLoad s = .next s) ∧
    (s.seq.phase ≠ .idle → exec (.pduAccept p) s = .next s) ∧
    (s.outq = [] → exec .samplePop s = .next s) ∧
    (s.seq.phase = .cfgerr → s.outq = [] → ∀ i, i ≠ .reset → exec i s = .next s)

/-! ### Push and pop -/

/-- PDU.ACCEPT in phase IDLE (R228, R245, R248, R249): a PDU that is too large, and an empty one where that is forbidden,
ends in its EncodingError; any other is taken: PB holds its copy, SEQ goes to (ENCODING, E1), the push is pending, what
was local to an earlier encode is gone, and all else stays. The pending mark is the model's view of the port (log 17). -/
def Obligations.PduAcceptChecksAndTakes : Prop :=
  ∀ (s : State) (p : List Byte), s.seq.phase = .idle →
    (∀ m, s.par.maxPdu = some m → m < p.length →
      ∃ t, exec (.pduAccept p) s = .next t ∧ encodingErrorFrom s t 1 0) ∧
    ((∀ m, s.par.maxPdu = some m → p.length ≤ m) →
      (p = [] → s.par.forbidEmptyPdu = true →
        ∃ t, exec (.pduAccept p) s = .next t ∧ encodingErrorFrom s t 2 0) ∧
      ((p = [] → s.par.forbidEmptyPdu = false) →
        exec (.pduAccept p) s =
          .next { discardEncode s with pb := some p, seq := ⟨.encoding, .e1⟩, pushAns := .pending }))

/-- SAMPLE.POP (R231): the head of OUTQ is delivered and removed, in any phase, and nothing else changes. -/
def Obligations.PopDeliversTheHead : Prop :=
  ∀ (s : State) (x : TaggedSample) (r : List TaggedSample), s.outq = x :: r →
    exec .samplePop s = .next { s with outq := r, sampOut := some x }

/-! ### Framer -/

/-- FRM.PRE and FRM.SYNC in slot E1 (R120, R121). -/
def Obligations.FramerCopiesPreambleAndSync : Prop :=
  ∀ s : State, s.seq = ⟨.encoding, .e1⟩ →
    exec .frmPre s = .next { s with fb := ⟨some s.cfg.cr1, none, none, []⟩ } ∧
    exec .frmSync s = .next { s with fb := { s.fb with sync := some s.cfg.cr2 }, seq := ⟨.encoding, .e2⟩ }

/-- FRM.BODY in slot E2 (R122, R225): the body span is the encapsulator's result or the payload; SEQ goes to the next slot
that runs; with `append_crc` = 0 the CRC span is empty (R224). -/
def Obligations.FrmBodyAppendsTheBody : Prop :=
  ∀ (s : State) (d : List Byte), s.seq = ⟨.encoding, .e2⟩ → (if s.ax25 then s.encap else s.pb) = some d →
    exec .frmBody s = .next { s with
      fb := { s.fb with body := some d, crc := if s.appendCrc then s.fb.crc else [] },
      seq := ⟨.encoding, slotFrom3 s⟩ }

/-- The framer's contract (R123): after slots E1 and E2 the frame is PRE ++ SYNC ++ B, B the payload or its
encapsulation, and |bytes(FB)| = PRE_LEN + SYNC_LEN + |B|. -/
def Obligations.FramerContract : Prop :=
  ∀ (s : State) (p : List Byte), readyToEncode s p →
    ∃ t, runAll [.frmPre, .frmSync, .ax25Encap, .frmBody] s = .next t ∧
      t.fb = ⟨some s.cfg.cr1, some s.cfg.cr2, some (bodyOf s.cfg p), []⟩ ∧
      t.fb.bytes = s.cfg.cr1 ++ s.cfg.cr2 ++ bodyOf s.cfg p ∧
      t.fb.bytes.length = s.cfg.cr1.length + s.cfg.cr2.length + (bodyOf s.cfg p).length ∧
      (bodyOf s.cfg p).length = p.length + (if s.ax25 then 18 else 0) ∧
      t.seq = ⟨.encoding, slotFrom3 s⟩ ∧ t.cfg = s.cfg ∧ t.outq = s.outq ∧ t.sampleCnt = s.sampleCnt ∧ t.err = s.err

/-! ### AX.25 -/

/-- AX25.ADDR (R131) in format F-ADDR (R94): bits 7:1 of octets 0 to 5 are the low seven bits of the characters, bit 0 is
0; octet 6 is 0, 11, the SSID, the end-of-address bit. -/
def Obligations.AddressOctets : Prop :=
  ∀ (s : State) (a : AddrArg) (k : Callsign) (n : Byte) (last : Bit), s.seq.phase = .encoding → s.ax25 = true →
    readAddr s a = some (k, n) →
    ∃ l : List Byte, exec (.ax25Addr a last) s = .next { s with res := .bytes l } ∧
      l = [k.c0.extractLsb' 0 7 ++ 0#1, k.c1.extractLsb' 0 7 ++ 0#1, k.c2.extractLsb' 0 7 ++ 0#1,
        k.c3.extractLsb' 0 7 ++ 0#1, k.c4.extractLsb' 0 7 ++ 0#1, k.c5.extractLsb' 0 7 ++ 0#1,
        0b011#3 ++ n.extractLsb' 0 4 ++ BitVec.ofBool last]

/-- AX25.HDR (R132): destination subfield, source subfield with the end-of-address marker, control 0x03, PID 0xF0,
payload. The payload is PB or given explicitly (R60; log 16). -/
def Obligations.HeaderLayout : Prop :=
  ∀ (s : State) (p : BytesArg) (l : List Byte), s.seq.phase = .encoding → s.ax25 = true → s.held.addr = true →
    readPayload s p = some l →
    ∃ h, exec (.ax25Hdr p) s = .next { s with res := .bytes h } ∧ h.length = 16 + l.length ∧
      exec (.ax25Addr .dest false) s = .next { s with res := .bytes (h.take 7) } ∧
      exec (.ax25Addr .src true) s = .next { s with res := .bytes ((h.drop 7).take 7) } ∧
      (h.drop 14).take 2 = [0x03#8, 0xF0#8] ∧ h.drop 16 = l

/-- FCS.INIT and FCS.BIT (R133, R134): the register shifts right with taps at bits 15, 10 and 3; the register read is the
FCS register or a value given; nothing else changes but the returned result. -/
def Obligations.FcsInitAndBit : Prop :=
  ∀ s : State, s.seq.phase = .encoding → s.ax25 = true →
    exec .fcsInit s = .next { s with fcs := 0xFFFF#16, held := { s.held with fcs := true } } ∧
    ∀ (f : RegArg 16) (v : BitVec 16) (b : Bit), readFcs s f = some v →
      ∃ w : BitVec 16, exec (.fcsBit f b) s =
          .next { s with fcs := w, held := { s.held with fcs := true }, res := .word w } ∧
        ∀ i < 16, w.getLsbD i = fcsBitAt v b i

/-- FCS.BYTE (R135): the same as eight FCS.BITs, least significant bit of the byte first. That FCS holds the new value
also after an explicit operand is the model's choice (log 16). -/
def Obligations.FcsByteIsEightBits : Prop :=
  ∀ (s : State) (f : RegArg 16) (v : BitVec 16) (x : Byte), s.seq.phase = .encoding → s.ax25 = true →
    readFcs s f = some v →
    ∃ w : BitVec 16, exec (.fcsByte f x) s =
        .next { s with fcs := w, held := { s.held with fcs := true }, res := .word w } ∧
      runAll [.fcsBit f (x.getLsbD 0), .fcsBit .reg (x.getLsbD 1), .fcsBit .reg (x.getLsbD 2),
        .fcsBit .reg (x.getLsbD 3), .fcsBit .reg (x.getLsbD 4), .fcsBit .reg (x.getLsbD 5),
        .fcsBit .reg (x.getLsbD 6), .fcsBit .reg (x.getLsbD 7)] s =
        .next { s with fcs := w, held := { s.held with fcs := true }, res := .word w }

/-- AX25.FCS (R136, R63): FCS.INIT, then FCS.BYTE over the sequence; the value is the register complemented, sent low byte
first. The sequence is the header just assembled or given explicitly (R60; log 16). -/
def Obligations.FcsOfASequence : Prop :=
  ∀ (s : State) (h : BytesArg) (l : List Byte), s.seq.phase = .encoding → s.ax25 = true → readHeader s h = some l →
    ∃ (r : BitVec 16) (u : State),
      exec (.ax25Fcs h) s = .next { s with
        fcs := r, held := { s.held with fcs := true },
        res := .fcs (r ^^^ 0xFFFF#16) [(r ^^^ 0xFFFF#16).extractLsb' 0 8, (r ^^^ 0xFFFF#16).extractLsb' 8 8] } ∧
      runAll (.fcsInit :: l.map (.fcsByte .reg)) s = .next u ∧ u.fcs = r

/-- The residue (R145 b): the register run over a sequence and its two FCS bytes ends at 0xF0B8, for every sequence. -/
def Obligations.FcsResidue : Prop :=
  ∀ (s : State) (h : List Byte), s.seq.phase = .encoding → s.ax25 = true →
    ∃ (t u : State) (f : BitVec 16) (l : List Byte),
      exec (.ax25Fcs (.imm h)) s = .next t ∧ t.res = .fcs f l ∧
      exec (.ax25Fcs (.imm (h ++ l))) s = .next u ∧ u.fcs = 0xF0B8#16

/-- AX25.ENCAP in slot E2 (R137, R93): the 18 bytes around the payload, each field at its offset. -/
def Obligations.EncapsulationFormat : Prop :=
  ∀ (s : State) (p : List Byte), s.seq = ⟨.encoding, .e2⟩ → s.ax25 = true → s.held.addr = true → s.pb = some p →
    ∃ (b : List Byte) (r : BitVec 16),
      exec .ax25Encap s =
        .next { s with encap := some b, fcs := r, held := { s.held with fcs := true } } ∧
      b.length = p.length + 18 ∧
      b.take 7 = ax25Addr s.cfg.cr3 s.cfg.cr4 false ∧
      (b.drop 7).take 7 = ax25Addr s.cfg.cr5 s.cfg.cr6 true ∧
      (b.drop 14).take 2 = [0x03#8, 0xF0#8] ∧
      (b.drop 16).take p.length = p ∧
      b.drop (16 + p.length) = [(r ^^^ 0xFFFF#16).extractLsb' 0 8, (r ^^^ 0xFFFF#16).extractLsb' 8 8] ∧
      r = fcsReg (b.take (16 + p.length))

/-- STUFF.BIT (R138): after the fifth consecutive 1 a 0 is inserted and the count cleared; a 0 clears the count. That
ONES is written with the new count also for an explicit operand is the model's choice (log 16). -/
def Obligations.StuffBitResult : Prop :=
  ∀ (s : State) (n : RegArg 3) (v : BitVec 3) (b : Bit), s.seq.phase = .encoding → s.ax25 = true →
    readOnes s n = some v →
    exec (.stuffBit n b) s = .next { s with
      ones := if b = false then 0 else if v = 4#3 then 0 else v + 1#3,
      held := { s.held with ones := true },
      res := .bits (if b = false then [false] else if v = 4#3 then [true, false] else [true]) }

/-- AX25.STUFF in slot E6 (R139): BB.BODY is replaced by what STUFF.BIT emits over it, the count starting at 0; the other
spans stay; with `manchester` = 0 BB.LINE is then the plain concatenation (R224). -/
def Obligations.StuffReplacesTheBody : Prop :=
  ∀ (s : State) (p y d c : List Bit), s.seq = ⟨.encoding, .e6⟩ → s.ax25 = true → s.bb.pre = some p →
    s.bb.sync = some y → s.bb.body = some d → s.bb.crc = some c →
    ∃ (out : List Bit) (n : BitVec 3),
      exec .ax25Stuff s = .next { s with
        bb := ⟨some p, some y, some out, some c, if s.manchester then s.bb.line else some (p ++ y ++ out ++ c)⟩,
        ones := n, held := { s.held with ones := true }, seq := ⟨.encoding, slotFrom7 s⟩ } ∧
      (out, n) = d.foldl (fun a b => (a.1 ++ (stuffBit a.2 b).1, (stuffBit a.2 b).2)) ([], 0#3)

/-- R143: (a), as corrected by 90_conflicts.md C1, AX25.STUFF puts out no six consecutive 1 bits; (b) removing the bit
after every run of five 1 bits gives the input back, for every bit sequence. -/
def Obligations.StuffingIsBoundedAndReversible : Prop :=
  ∀ (s : State) (d : List Bit), s.seq = ⟨.encoding, .e6⟩ → s.ax25 = true → s.bb.body = some d →
    ∃ t out, exec .ax25Stuff s = .next t ∧ t.bb.body = some out ∧ ¬ (List.replicate 6 true <:+: out) ∧ destuff out = d

/-- R144: `n` bits grow by `k` inserted zeros with k at most floor(n / 5), and by exactly floor(n / 5) when all are 1; the
body has 8 * (PDU_LEN + 18) bits; the line and the burst are sized with the stuffed length. -/
def Obligations.StuffingExpansion : Prop :=
  (∀ d : List Bit, ∃ k, (stuff d).length = d.length + k ∧ k ≤ d.length / 5) ∧
  (∀ n : Nat, (stuff (List.replicate n true)).length = n + n / 5) ∧
  ∀ (g : CfgRegs) (p : List Byte), flagAx25 g.cr0 = true →
    (bodyBits g p).length = 8 * (p.length + 18) ∧
    ∃ k, k ≤ 8 * (p.length + 18) / 5 ∧ (bodyLine g p).length = 8 * (p.length + 18) + k ∧
      (burstOf g p).length = lineLenFormula g p.length k + g.cr7.toNat

/-! ### CRC-16 -/

/-- CRC16.INIT and CRC16.BIT (R161, R162): the register shifts left with taps at bits 12, 5 and 0. -/
def Obligations.CrcInitAndBit : Prop :=
  ∀ s : State, s.seq.phase = .encoding → s.appendCrc = true →
    exec .crc16Init s = .next { s with crc := 0xFFFF#16, held := { s.held with crc := true } } ∧
    ∀ (c : RegArg 16) (v : BitVec 16) (b : Bit), readCrc s c = some v →
      ∃ w : BitVec 16, exec (.crc16Bit c b) s =
          .next { s with crc := w, held := { s.held with crc := true }, res := .word w } ∧
        ∀ i < 16, w.getLsbD i = crcBitAt v b i

/-- CRC16.BYTE (R163): the same as eight CRC16.BITs, most significant bit of the byte first. That CRC holds the new value
also after an explicit operand is the model's choice (log 16). -/
def Obligations.CrcByteIsEightBits : Prop :=
  ∀ (s : State) (c : RegArg 16) (v : BitVec 16) (x : Byte), s.seq.phase = .encoding → s.appendCrc = true →
    readCrc s c = some v →
    ∃ w : BitVec 16, exec (.crc16Byte c x) s =
        .next { s with crc := w, held := { s.held with crc := true }, res := .word w } ∧
      runAll [.crc16Bit c (x.getLsbD 7), .crc16Bit .reg (x.getLsbD 6), .crc16Bit .reg (x.getLsbD 5),
        .crc16Bit .reg (x.getLsbD 4), .crc16Bit .reg (x.getLsbD 3), .crc16Bit .reg (x.getLsbD 2),
        .crc16Bit .reg (x.getLsbD 1), .crc16Bit .reg (x.getLsbD 0)] s =
        .next { s with crc := w, held := { s.held with crc := true }, res := .word w }

/-- The byte-parallel form (R166), of the values CRC16.BYTE returns: CRC16.BYTE(c, x) = ((c << 8) & 0xFFFF) ^
T[c[15:8] ^ x], T[t] = CRC16.BYTE(0, t), and the table entries that the rule prints. The latch that shows a returned value
is the model's (log 16). -/
def Obligations.CrcByteParallelForm : Prop :=
  ∀ (s : State) (c : BitVec 16) (x : Byte), s.seq.phase = .encoding → s.appendCrc = true →
    ∃ (t u : State) (w e : BitVec 16), exec (.crc16Byte (.imm c) x) s = .next t ∧ t.res = .word w ∧
      exec (.crc16Byte (.imm 0x0000#16) (c.extractLsb' 8 8 ^^^ x)) s = .next u ∧ u.res = .word e ∧
      w = (c <<< 8) ^^^ e ∧
      ∀ a ∈ [(0x00#8, 0x0000#16), (0x01#8, 0x1021#16), (0x02#8, 0x2042#16), (0x03#8, 0x3063#16), (0x80#8, 0x9188#16),
          (0xFF#8, 0x1EF0#16)],
        ∃ v, exec (.crc16Byte (.imm 0x0000#16) a.1) s = .next v ∧ v.res = .word a.2

/-- CRC16.RUN (R164): the register set to the seed, then CRC16.BYTE over the sequence; the register is the value, with no
final XOR. The sequence is FB.SYNC ++ FB.BODY or given explicitly (R60; log 16). -/
def Obligations.CrcOfASequence : Prop :=
  ∀ (s : State) (d : BytesArg) (init : InitArg) (l : List Byte), s.seq.phase = .encoding → s.appendCrc = true →
    readFrame s d = some l →
    ∃ (r : BitVec 16), exec (.crc16Run d init) s =
        .next { s with crc := r, held := { s.held with crc := true }, res := .word r } ∧
      (l = [] → r = readInit init) ∧
      ∀ x r', l = x :: r' → ∃ u v,
        exec (.crc16Byte (.imm (readInit init)) x) s = .next u ∧ runAll (r'.map (.crc16Byte .reg)) u = .next v ∧
          v.crc = r

/-- CRC16.APPEND in slot E3 (R165, R160, R62): the CRC of FB.SYNC ++ FB.BODY, high byte then low byte, becomes the CRC span;
no byte already in FB changes. -/
def Obligations.CrcAppendsTwoBytes : Prop :=
  ∀ (s : State) (y d : List Byte), s.seq = ⟨.encoding, .e3⟩ → s.appendCrc = true → s.fb.sync = some y →
    s.fb.body = some d →
    ∃ c : BitVec 16, exec .crc16Append s = .next { s with
        crc := c, held := { s.held with crc := true },
        fb := { s.fb with crc := [c.extractLsb' 8 8, c.extractLsb' 0 8] }, seq := ⟨.encoding, slotFrom4 s⟩ } ∧
      exec (.crc16Run .own .dflt) s =
        .next { s with crc := c, held := { s.held with crc := true }, res := .word c } ∧
      c = (y ++ d).foldl crcByte 0xFFFF#16

/-- The residue (R167 b): the CRC of a sequence followed by its own two CRC bytes is 0x0000, for every sequence. -/
def Obligations.CrcResidue : Prop :=
  ∀ (s : State) (m : List Byte), s.seq.phase = .encoding → s.appendCrc = true →
    ∃ (t u : State), exec (.crc16Run (.imm m) .dflt) s = .next t ∧
      exec (.crc16Run (.imm (m ++ [t.crc.extractLsb' 8 8, t.crc.extractLsb' 0 8])) .dflt) s = .next u ∧
      u.crc = 0x0000#16

/-- Linearity (R167 c): for sequences of equal length, CRC(a ^ b) = CRC(a) ^ CRC(b) ^ CRC(zeros). -/
def Obligations.CrcIsLinear : Prop :=
  ∀ (s : State) (a b : List Byte), s.seq.phase = .encoding → s.appendCrc = true → a.length = b.length →
    ∃ ta tb tz tx : State, exec (.crc16Run (.imm a) .dflt) s = .next ta ∧ exec (.crc16Run (.imm b) .dflt) s = .next tb ∧
      exec (.crc16Run (.imm (List.replicate a.length 0x00#8)) .dflt) s = .next tz ∧
      exec (.crc16Run (.imm (List.zipWith (· ^^^ ·) a b)) .dflt) s = .next tx ∧
      tx.crc = ta.crc ^^^ tb.crc ^^^ tz.crc

/-! ### Whitening -/

/-- PN9.INIT and PN9.STEP (R176, R177). -/
def Obligations.Pn9InitAndStep : Prop :=
  ∀ s : State, s.seq.phase = .encoding → s.whitening = true →
    exec .pn9Init s = .next { s with lfsr := 0x1FF#9, held := { s.held with lfsr := true } } ∧
    ∀ (a : RegArg 9) (r : BitVec 9), readLfsr s a = some r →
      ∃ w : BitVec 9, exec (.pn9Step a) s =
          .next { s with lfsr := w, held := { s.held with lfsr := true }, res := .lfsr w } ∧
        ∀ i < 9, w.getLsbD i = pn9BitAt r i

/-- PN9.BYTE (R178): LFSR[7:0] is returned and LFSR is where eight PN9.STEPs leave it. -/
def Obligations.Pn9ByteTakesTheLowEightBits : Prop :=
  ∀ s : State, s.seq.phase = .encoding → s.whitening = true → s.held.lfsr = true →
    ∃ (w : BitVec 9) (u : State),
      exec .pn9Byte s = .next { s with lfsr := w, res := .byte (s.lfsr.extractLsb' 0 8) } ∧
      runAll (List.replicate 8 (.pn9Step .reg)) s = .next u ∧ u.lfsr = w

/-- The period (R182): from the seed the register returns after exactly 511 steps, visits every non-zero value, and never
holds 0; the key bytes repeat with period 511. -/
def Obligations.Pn9Period : Prop :=
  pn9Steps 511 pn9Seed = pn9Seed ∧ (∀ n, 0 < n → n < 511 → pn9Steps n pn9Seed ≠ pn9Seed) ∧
  (∀ r : BitVec 9, r ≠ 0#9 → ∃ n < 511, pn9Steps n pn9Seed = r) ∧ (∀ n, pn9Steps n pn9Seed ≠ 0#9) ∧
  ∀ (n j : Nat), j + 511 < n → (pn9Bytes n pn9Seed)[j + 511]? = (pn9Bytes n pn9Seed)[j]?

/-- WHITEN in slot E4 (R180, R175): with D = SYNC ++ BODY ++ CRC and K = PN9_BYTES(|D|), D[j] becomes D[j] ^ K[j] as one
continuous sequence, the spans keep their lengths, PRE is not touched, and LFSR is where |D| PN9.BYTEs from the seed leave
it (at the seed where D is empty). -/
def Obligations.WhitenXorsTheKeySequence : Prop :=
  ∀ (s : State) (y d : List Byte), s.seq = ⟨.encoding, .e4⟩ → s.whitening = true → s.fb.sync = some y →
    s.fb.body = some d →
    ∃ y' d' c' : List Byte,
      exec .whiten s = .next { s with
        fb := ⟨s.fb.pre, some y', some d', c'⟩,
        lfsr := pn9After (y.length + d.length + s.fb.crc.length) 0x1FF#9,
        held := { s.held with lfsr := true }, seq := ⟨.encoding, .e5⟩ } ∧
      y'.length = y.length ∧ d'.length = d.length ∧ c'.length = s.fb.crc.length ∧
      y' ++ d' ++ c' = List.zipWith (· ^^^ ·) (y ++ d ++ s.fb.crc)
        (pn9Bytes (y.length + d.length + s.fb.crc.length) 0x1FF#9)

/-- The involution (R181): whitening the whitened frame again gives the frame back; the result depends on the bytes and the
seed only; the lengths are unchanged. -/
def Obligations.WhiteningIsAnInvolution : Prop :=
  ∀ (s : State) (y d : List Byte), s.seq = ⟨.encoding, .e4⟩ → s.whitening = true → s.fb.sync = some y →
    s.fb.body = some d →
    ∃ t u, exec .whiten s = .next t ∧ exec .whiten { t with seq := ⟨.encoding, .e4⟩ } = .next u ∧ u.fb = s.fb ∧
      t.fb.sync.map List.length = some y.length ∧ t.fb.body.map List.length = some d.length ∧
      t.fb.crc.length = s.fb.crc.length ∧
      ∀ v : State, v.seq = ⟨.encoding, .e4⟩ → v.whitening = true → v.fb = s.fb →
        ∃ w, exec .whiten v = .next w ∧ w.fb = t.fb

/-! ### Serializer, Manchester, NRZ -/

/-- SER.BYTE, MANCH.BIT and NRZ.BIT (R200, R191, R211): their results; nothing else changes. -/
def Obligations.BitOperationResults : Prop :=
  ∀ s : State, s.seq.phase = .encoding →
    (∀ (x : Byte) (m : Bit), ∃ l : List Bit, exec (.serByte x m) s = .next { s with res := .bits l } ∧ l.length = 8 ∧
      ∀ t < 8, l[t]? = some (x.getLsbD (if m then 7 - t else t))) ∧
    (∀ b : Bit, s.manchester = true → exec (.manchBit b) s = .next { s with res := .bits [b, !b] }) ∧
    (∀ b : Bit, exec (.nrzBit b) s = .next { s with res := .sample (if b then .pos else .neg) })

/-- SER in slot E5 (R202, R201, R203): each span's bytes in index order, the body least significant bit first when
`ax25_format` = 1, every other span by `msb_first`; without AX.25 and Manchester BB.LINE is the plain concatenation. -/
def Obligations.SerialiseTheSpans : Prop :=
  ∀ (s : State) (p y d : List Byte), s.seq = ⟨.encoding, .e5⟩ → s.fb.pre = some p → s.fb.sync = some y →
    s.fb.body = some d →
    ∃ bp b_y bd bc : List Bit,
      exec .ser s = .next { s with
        bb := ⟨some bp, some b_y, some bd, some bc,
          if s.ax25 || s.manchester then s.bb.line else some (bp ++ b_y ++ bd ++ bc)⟩,
        seq := ⟨.encoding, slotFrom6 s⟩ } ∧
      bp.length = 8 * p.length ∧ b_y.length = 8 * y.length ∧ bd.length = 8 * d.length ∧
      bc.length = 8 * s.fb.crc.length ∧
      (∀ j t, t < 8 → bp[8 * j + t]? = (p[j]?).map fun x => x.getLsbD (if s.msbFirst then 7 - t else t)) ∧
      (∀ j t, t < 8 → b_y[8 * j + t]? = (y[j]?).map fun x => x.getLsbD (if s.msbFirst then 7 - t else t)) ∧
      (∀ j t, t < 8 → bd[8 * j + t]? =
        (d[j]?).map fun x => x.getLsbD (if s.msbFirst && !s.ax25 then 7 - t else t)) ∧
      (∀ j t, t < 8 → bc[8 * j + t]? = (s.fb.crc[j]?).map fun x => x.getLsbD (if s.msbFirst then 7 - t else t))

/-- MANCH in slot E7 (R192, R193 a and b): every bit of a coded region becomes the pair of itself and its complement; the
preamble is exempt exactly when `manch_preamble` = 0. -/
def Obligations.ManchesterCodesTheLine : Prop :=
  ∀ (s : State) (p y d c : List Bit), s.seq = ⟨.encoding, .e7⟩ → s.manchester = true → s.bb.pre = some p →
    s.bb.sync = some y → s.bb.body = some d → s.bb.crc = some c →
    ∃ lp lr : List Bit,
      exec .manch s = .next { s with bb := { s.bb with line := some (lp ++ lr) }, seq := ⟨.encoding, .e8⟩ } ∧
      (s.manchPreamble = false → lp = p) ∧
      (s.manchPreamble = true → lp.length = 2 * p.length ∧
        ∀ j b, p[j]? = some b → lp[2 * j]? = some b ∧ lp[2 * j + 1]? = some (!b)) ∧
      lr.length = 2 * (y ++ d ++ c).length ∧
      ∀ j b, (y ++ d ++ c)[j]? = some b → lr[2 * j]? = some b ∧ lr[2 * j + 1]? = some (!b)

/-- NRZ in slot E8 (R212): one sample per line bit, in order, 0 to -1.0 and 1 to +1.0. -/
def Obligations.NrzMapsTheLine : Prop :=
  ∀ (s : State) (l : List Bit), s.seq = ⟨.encoding, .e8⟩ → s.bb.line = some l →
    exec .nrz s = .next { s with
      sb := { s.sb with s := some (l.map fun b => if b then .pos else .neg) },
      seq := ⟨.encoding, .e9⟩ }

/-! ### Settling, tag, hand-off -/

/-- SETTLE in slot E9 (R215, R246): CR7 zero samples are appended; where the length does not fit 32 bits, EncodingError
INTERNAL with info 9. -/
def Obligations.SettleAppendsZeros : Prop :=
  ∀ (s : State) (l : List Sample), s.seq = ⟨.encoding, .e9⟩ → s.sb.s = some l →
    (l.length + s.cfg.cr7.toNat < 2 ^ 32 →
      exec .settle s = .next { s with
        sb := { s.sb with s := some (l ++ List.replicate s.cfg.cr7.toNat .zero) },
        seq := ⟨.encoding, .e10⟩ }) ∧
    (2 ^ 32 ≤ l.length + s.cfg.cr7.toNat → ∃ t, exec .settle s = .next t ∧ encodingErrorFrom s t 3 9)

/-- TAG in slot E10 (R220): length, offset SAMPLE_CNT, and a tag where there is a first sample; where the length does not
fit 32 bits, EncodingError INTERNAL with info 10. -/
def Obligations.TagDescribesTheBurst : Prop :=
  ∀ (s : State) (l : List Sample), s.seq = ⟨.encoding, .e10⟩ → s.sb.s = some l →
    (l.length < 2 ^ 32 →
      exec .tag s = .next { s with
        sb := { s.sb with desc := some ⟨BitVec.ofNat 32 l.length, s.sampleCnt,
          if l = [] then none else some ⟨true, BitVec.ofNat 32 l.length, s.sampleCnt⟩⟩ } }) ∧
    (2 ^ 32 ≤ l.length → ∃ t, exec .tag s = .next t ∧ encodingErrorFrom s t 3 10)

/-- HANDOFF in slot E10, after TAG (R230, R223): the whole burst enters OUTQ at its tail, the first sample with the tag and
the others with none; SAMPLE_CNT advances by its length; buffers are discarded; the push is answered OK; phase IDLE. A
burst of length zero leaves OUTQ and SAMPLE_CNT as they were. -/
def Obligations.HandoffMovesTheBurst : Prop :=
  ∀ (s : State) (l : List Sample) (d : BurstDesc), s.seq = ⟨.encoding, .e10⟩ → s.sb.s = some l →
    s.sb.desc = some d → d.len.toNat = l.length →
    ∃ q : List TaggedSample, exec .handoff s = .next { discardEncode s with
        outq := s.outq ++ q, sampleCnt := s.sampleCnt + BitVec.ofNat 64 l.length, seq := ⟨.idle, .e0⟩,
        pushAns := .ok } ∧
      q.map TaggedSample.sample = l ∧ q.map TaggedSample.tag = (l.mapIdx fun j _ => if j = 0 then d.tag else none)

/-! ### The whole pipeline -/

/-- ENCODE (R224): one full run of the pipeline puts out exactly the burst of the closed form, tagged (R220, R221), counts
it, answers OK and returns to IDLE with the buffers discarded; configuration, ERR, the parameters, the working registers of the
units that are not invoked and, but for the push's answer, the ports and the host's inputs stay. The fields that show the
ports and inputs are the model's (logs 4, 17, 31). -/
def Obligations.EncodeMatchesTheClosedForm : Prop :=
  ∀ (s : State) (p : List Byte), readyToEncode s p → fits s p →
    ∃ t q, exec .encode s = .next t ∧ t.outq = s.outq ++ q ∧
      q.map TaggedSample.sample = burstOf s.cfg p ∧
      q.map TaggedSample.tag = ((burstOf s.cfg p).mapIdx fun j _ =>
        if j = 0 then burstTag (burstOf s.cfg p).length s.sampleCnt else none) ∧
      t.sampleCnt = s.sampleCnt + BitVec.ofNat 64 (burstOf s.cfg p).length ∧
      t.seq = ⟨.idle, .e0⟩ ∧ t.pushAns = .ok ∧ t.cfg = s.cfg ∧ t.err = s.err ∧ t.par = s.par ∧
      t.sampOut = s.sampOut ∧ t.statOut = s.statOut ∧ t.cfgPort = s.cfgPort ∧ t.host = s.host ∧ t.word = s.word ∧
      t.pb = none ∧ t.fb = FrameBuf.empty ∧ t.bb = BitBuf.empty ∧ t.sb = SampleBuf.empty ∧ t.encap = none ∧
      t.held = { addr := s.held.addr, crc := false, fcs := false, lfsr := false, ones := false } ∧ t.res = .nothing ∧
      (s.appendCrc = false → t.crc = s.crc) ∧ (s.ax25 = false → t.fcs = s.fcs ∧ t.ones = s.ones) ∧
      (s.whitening = false → t.lfsr = s.lfsr)

/-- A burst whose length does not fit 32 bits (R246, R248, R254): EncodingError INTERNAL in slot E9, and no partial
output. -/
def Obligations.EncodeOverflowIsInternal : Prop :=
  ∀ (s : State) (p : List Byte), readyToEncode s p → ¬ fits s p →
    ∃ t, exec .encode s = .next t ∧ errEnc t.err = true ∧ errCfg t.err = errCfg s.err ∧ errShows t.err 2 3 9 ∧
      t.outq = s.outq ∧ t.sampleCnt = s.sampleCnt ∧ t.seq = ⟨.idle, .e0⟩ ∧ t.pushAns = .error 2 3 ∧ t.cfg = s.cfg ∧
      t.pb = none ∧ t.fb = FrameBuf.empty ∧ t.bb = BitBuf.empty ∧ t.sb = SampleBuf.empty

/-- The length invariant (R222), for every combination of the flags; and the only burst of length zero (R223). -/
def Obligations.LengthInvariant : Prop :=
  ∀ (g : CfgRegs) (p : List Byte),
    (lineOf g p).length = lineLenFormula g p.length (stuffedZeros g p) ∧
    (burstOf g p).length = (lineOf g p).length + g.cr7.toNat ∧
    5 * stuffedZeros g p ≤ (bodyBits g p).length ∧ (flagAx25 g.cr0 = false → stuffedZeros g p = 0) ∧
    (burstOf g p = [] ↔ flagAx25 g.cr0 = false ∧ g.cr1 = [] ∧ g.cr2 = [] ∧ p = [] ∧ flagAppendCrc g.cr0 = false ∧
      g.cr7 = 0#32)

/-- Determinism (R236): with one configuration, the samples of a burst depend on the PDU alone, and its tag on the PDU and
the stream offset, whatever else the two states hold. -/
def Obligations.BurstDependsOnThePduAlone : Prop :=
  ∀ (s u : State) (p : List Byte), readyToEncode s p → readyToEncode u p → s.cfg = u.cfg → fits s p →
    ∃ t v q r, exec .encode s = .next t ∧ exec .encode u = .next v ∧ t.outq = s.outq ++ q ∧ v.outq = u.outq ++ r ∧
      q.map TaggedSample.sample = r.map TaggedSample.sample ∧
      q.map (fun x => x.tag.map fun g => (g.sob, g.burstLen)) = r.map (fun x => x.tag.map fun g => (g.sob, g.burstLen))

/-- The sequencer and the decoder agree (R97, R225): after a push that is accepted, with the host silent, the operations
the core runs are exactly the list the operation map gives for CR0, in its order. -/
def Obligations.SequencerRunsTheDecodedList : Prop :=
  ∀ (s : State) (p : List Byte), s.seq.phase = .idle → reservedClear s.cfg.cr0 = true →
    (s.ax25 = true → s.held.addr = true) → (∀ m, s.par.maxPdu = some m → p.length ≤ m) →
    (p = [] → s.par.forbidEmptyPdu = false) → fits s p →
    ∃ t, exec (.pduAccept p) s = .next t ∧ pipelineOf s.cfg.cr0 = some (coreTrace 14 t)

/-- Stepwise and whole (R233): after a push that is accepted, with the host silent, thirteen moves of the core end in the
state that the one operation ENCODE gives, in phase IDLE, whether the burst was handed off or an error raised. How much one
move does, so that there are thirteen, is the model's choice (log 18), not a time. -/
def Obligations.StepwiseRunIsEncode : Prop :=
  ∀ (s : State) (p : List Byte), s.seq.phase = .idle → s.host = [] → s.word = none → (∀ m, s.par.maxPdu = some m → p.length ≤ m) →
    (p = [] → s.par.forbidEmptyPdu = false) →
    ∃ t v, exec (.pduAccept p) s = .next t ∧ coreRun 13 t = .next v ∧ exec .encode t = .next v ∧ v.seq = ⟨.idle, .e0⟩ ∧
      (v.pushAns = .ok ∨ v.pushAns = .error 2 3)

/-! ### Steps, words, decoding -/

/-- A step runs the decoded operation. A word given for itself is decoded and run (R111; log 31). Else the host's next move
is used up and the step is that transaction (R229): RESET, PDU.ACCEPT, SAMPLE.POP, the port driven, the status read; and
where the host waits or is silent it is the sequencer's own operation, or nothing where the core waits too (R224, R226).
Nothing else happens around exec. Words and moves are the model's form of it (logs 1, 4). -/
def Obligations.StepRunsTheDecodedOperation : Prop :=
  ∀ s : State,
    (∀ (l : List Byte) (i : Instr), s.word = some l → decode l = .ok i → step s = exec i { s with word := none }) ∧
    (s.word = none → s.host = [] →
      (∀ i, coreMove s = .run i → step s = exec i s) ∧ (coreMove s = .idle → step s = .next s)) ∧
    ∀ r : List HostMove, s.word = none →
      (s.host = .wait :: r → (∀ i, coreMove s = .run i → step s = exec i { s with host := r }) ∧
        (coreMove s = .idle → step s = .next { s with host := r })) ∧
      (s.host = .reset :: r → step s = exec .reset { s with host := r }) ∧
      (∀ p, s.host = .push p :: r → step s = exec (.pduAccept p) { s with host := r }) ∧
      (s.host = .pop :: r → step s = exec .samplePop { s with host := r }) ∧
      (∀ v, s.host = .drive v :: r → step s = .next { s with host := r, cfgPort := v }) ∧
      (s.host = .status :: r → step s = .next { s with host := r, statOut := some s.status })

/-- A read of the status port (R229, R41, R71): in every phase it shows `ready`, `cfg_err`, ERR and SAMPLE_CNT, and
changes nothing. Where the value read stands is the model's view of the port (log 17). -/
def Obligations.StatusShowsTheStatusRegisters : Prop :=
  ∀ (s : State) (r : List HostMove), s.word = none → s.host = .status :: r →
    ∃ v : Status, step s = .next { s with host := r, statOut := some v } ∧
      (v.ready = true ↔ s.seq.phase = .idle) ∧ (v.cfgErr = true ↔ s.seq.phase = .cfgerr) ∧
      v.err = s.err ∧ v.sampleCnt = s.sampleCnt

/-- The boundary between host and core (R255): a transaction of the host other than RESET, whatever the phase, touches no
configuration register, working register or counter, and, but for a push in phase IDLE, nothing at all beside the ports and
the head of OUTQ; and where no operation word is given for itself none ever is, so the host's transactions and the core's
own operations are all that runs. That transactions come as a list of moves is the model's (log 4), words are log 31. -/
def Obligations.HostTouchesOnlyThePorts : Prop :=
  ∀ s : State, s.word = none →
    (∀ t, step s = .next t → t.word = none) ∧
    ∀ (m : HostMove) (r : List HostMove), s.host = m :: r → m ≠ .wait → m ≠ .reset →
      ∃ t, step s = .next t ∧ t.host = r ∧
        t.cfg = s.cfg ∧ t.crc = s.crc ∧ t.fcs = s.fcs ∧ t.lfsr = s.lfsr ∧ t.ones = s.ones ∧ t.held.addr = s.held.addr ∧
        t.sampleCnt = s.sampleCnt ∧ t.par = s.par ∧
        (m ≠ .pop → t.outq = s.outq ∧ t.sampOut = s.sampOut) ∧ (m ≠ .status → t.statOut = s.statOut) ∧
        ((∀ v, m ≠ .drive v) → t.cfgPort = s.cfgPort) ∧
        (m.isPush = false ∨ s.seq.phase ≠ .idle →
          t = { s with host := r, outq := t.outq, sampOut := t.sampOut, statOut := t.statOut, cfgPort := t.cfgPort } ∧
            (t.outq = s.outq ∨ t.outq = s.outq.tail))

/-- The core's own operations (R224, R270): CFG.LOAD in phase RESET, none in IDLE and CFGERR, and in phase ENCODING an
operation of the slot SEQ stands at. -/
def Obligations.SequencerPicksTheSlotsOperation : Prop :=
  ∀ s : State,
    (s.seq.phase = .reset → coreMove s = .run .cfgLoad) ∧
    (s.seq.phase = .idle ∨ s.seq.phase = .cfgerr → coreMove s = .idle) ∧
    (s.seq = ⟨.encoding, .e1⟩ → coreMove s = .run (if s.fb.pre = none then .frmPre else .frmSync)) ∧
    (s.seq = ⟨.encoding, .e2⟩ →
      coreMove s = .run (if s.ax25 = true ∧ s.encap = none then .ax25Encap else .frmBody)) ∧
    (s.seq = ⟨.encoding, .e3⟩ → coreMove s = .run .crc16Append) ∧
    (s.seq = ⟨.encoding, .e4⟩ → coreMove s = .run .whiten) ∧
    (s.seq = ⟨.encoding, .e5⟩ → coreMove s = .run .ser) ∧
    (s.seq = ⟨.encoding, .e6⟩ → coreMove s = .run .ax25Stuff) ∧
    (s.seq = ⟨.encoding, .e7⟩ → coreMove s = .run .manch) ∧
    (s.seq = ⟨.encoding, .e8⟩ → coreMove s = .run .nrz) ∧
    (s.seq = ⟨.encoding, .e9⟩ → coreMove s = .run .settle) ∧
    (s.seq = ⟨.encoding, .e10⟩ → coreMove s = .run (if s.sb.desc = none then .tag else .handoff))

/-- Decode and encode agree: for every well-formed operation, with every operand, and every control word its row enables,
the decoder reads the operation back. The word's layout beyond the control word is the model's (log 1). -/
def Obligations.DecodeOfEncode : Prop :=
  ∀ (i : Instr) (f : Byte), i.wf = true → i.row.enables f = true →
    decode (encodeUnder f i) = .ok i ∧ decode (encode i) = .ok i

/-- The decoder answers only well-formed operations whose row the control word enables (R97), and a control word with a
reserved bit set has no pipeline (R103). The format of an operation word, and that the decoder refuses one with a reserved
bit, are the model's choice (log 1); of the control word given on port `cfg` R103 says ConfigurationError. -/
def Obligations.DecodeIsSound : Prop :=
  ∀ (f : Byte) (l : List Byte),
    (∀ i, decode (f :: l) = .ok i → i.wf = true ∧ i.row.enables f = true) ∧
    (f &&& 0xC0#8 ≠ 0x00#8 → decode (f :: l) = .reject .flagsReserved ∧ pipelineOf f = none)

/-- The control word decoder on two words of R91 (the pipelines of S13), and two operation words whose control byte is
written out from R91 and whose further bytes, place and operands, are in the model's own format (log 1). -/
def Obligations.DecodeKnownWords : Prop :=
  pipelineOf 0b00100000#8 = some [.frmPre, .frmSync, .frmBody, .ser, .nrz, .settle, .tag, .handoff] ∧
  pipelineOf 0b00111011#8 = some [.frmPre, .frmSync, .ax25Encap, .frmBody, .crc16Append, .whiten, .ser, .ax25Stuff, .nrz,
    .settle, .tag, .handoff] ∧
  decode [0b00000001#8, 17#8, 1#8, 0xFF#8, 0xFF#8, 0x01#8] = .ok (.crc16Byte (.imm 0xFFFF#16) 0x01#8) ∧
  decode [0b00010000#8, 26#8, 1#8, 0#8, 4#8, 1#8] = .ok (.stuffBit (.imm 4#3) true)

/-! ### Rules of the whole machine -/

/-- The invariant: every step keeps the state legal (R29, R30, R31, R220, R231). -/
def Obligations.StepKeepsLegality : Prop :=
  ∀ s t : State, Legal s → step s = .next t → Legal t

/-- The state right after reset is legal, whatever the parameters, the port, the host's moves and the word given. -/
def Obligations.ResetIsLegal : Prop :=
  ∀ (v : CfgValues) (l : List HostMove) (w : Option (List Byte)) (p : Params),
    Legal { State.reset with cfgPort := v, host := l, word := w, par := p }

/-- No step from a legal state stops, whatever the host does, unless a word given for itself decodes to nothing. -/
def Obligations.LegalStatesGoOn : Prop :=
  ∀ s : State, Legal s → (∀ l, s.word = some l → ∃ i, decode l = .ok i) → ∃ t, step s = .next t

/-- The configuration is immutable (R29, R227): in every phase no operation but RESET and CFG.LOAD writes CR0 to CR7 or
whether the address registers hold a value, CFG.LOAD outside phase RESET does nothing; and no operation writes the
parameters. -/
def Obligations.ConfigurationIsImmutable : Prop :=
  ∀ (i : Instr) (s t : State), exec i s = .next t →
    t.par = s.par ∧ (i ≠ .reset → i ≠ .cfgLoad → t.cfg = s.cfg ∧ t.held.addr = s.held.addr) ∧
    (i = .cfgLoad → s.seq.phase ≠ .reset → t = s)

/-- The phase machine (R226): no transition is outside the table, and each is made by its event: RESET alone leads to phase
RESET and always does, CFG.LOAD alone leaves it, PDU.ACCEPT alone leads to ENCODING, an encode ends by HANDOFF (by itself or
as the end of ENCODE) with the push answered OK or by EncodingError INTERNAL, and SAMPLE.POP changes no phase. That the
push's answer stands in the state is the model's (log 17). -/
def Obligations.PhaseTransitions : Prop :=
  ∀ (i : Instr) (s t : State), exec i s = .next t →
    phaseMayGo s.seq.phase t.seq.phase = true ∧
    (i = .reset → t.seq.phase = .reset) ∧
    (t.seq.phase = .reset → i = .reset ∨ s.seq.phase = .reset) ∧
    (s.seq.phase = .reset → t.seq.phase ≠ .reset → i = .cfgLoad) ∧
    (s.seq.phase = .idle → t.seq.phase = .encoding → t.seq.slot = .e1 ∧ ∃ p, i = .pduAccept p) ∧
    (s.seq.phase = .encoding → t.seq.phase = .idle →
      t.pushAns = .ok ∧ (i = .handoff ∨ i = .encode) ∨ t.pushAns = .error 2 3 ∧ errEnc t.err = true) ∧
    (i = .samplePop → t.seq = s.seq)

/-- The error record (R31, R41, R271): no operation but RESET writes ERR other than by a raise, and a raise clears neither
sticky bit. Where ERR is written, the state is the one a ConfigurationError of CFG.LOAD leaves (R247), or an EncodingError
(R248) from the state itself, for ENCODE from the state its run has reached, with the same stream, configuration and ERR. -/
def Obligations.ErrIsWrittenOnlyByRaise : Prop :=
  ∀ (i : Instr) (s t : State), exec i s = .next t → i ≠ .reset →
    (errCfg s.err = true → errCfg t.err = true) ∧ (errEnc s.err = true → errEnc t.err = true) ∧
    (t.err = s.err ∨
      (i = .cfgLoad ∧ s.seq.phase = .reset ∧ t = { s with err := t.err, seq := ⟨.cfgerr, .e0⟩ } ∧
        errCfg t.err = true ∧ errEnc t.err = errEnc s.err ∧ ∃ c n, errShows t.err 1 c n) ∨
      ∃ (u : State) (c : BitVec 4) (n : Byte), u.err = s.err ∧ u.outq = s.outq ∧ u.sampleCnt = s.sampleCnt ∧
        u.cfg = s.cfg ∧ (i ≠ .encode → u = s) ∧ encodingErrorFrom u t c n)

/-- The stream (R32, R70, R75): only HANDOFF (by itself or as the end of ENCODE) appends to OUTQ and advances SAMPLE_CNT, by
as many samples as it appends; only SAMPLE.POP removes, one at the head; RESET empties both. -/
def Obligations.OnlyHandoffExtendsTheStream : Prop :=
  ∀ (i : Instr) (s t : State), exec i s = .next t → i ≠ .reset →
    (i = .samplePop → t.outq = s.outq.tail ∧ t.sampleCnt = s.sampleCnt) ∧
    (i = .handoff ∨ i = .encode →
      ∃ q, t.outq = s.outq ++ q ∧ t.sampleCnt = s.sampleCnt + BitVec.ofNat 64 q.length) ∧
    (i ≠ .samplePop → i ≠ .handoff → i ≠ .encode → t.outq = s.outq ∧ t.sampleCnt = s.sampleCnt)

/-- In an encode, a read of a working register or buffer not written in it, by every operation that reads one, is
EncodingError INTERNAL (R46, R68, R246). That info is the slot SEQ stands at for a sub-operation too is log 21, a HANDOFF
before TAG log 22, address registers without a value log 29, and the operand forms log 16. -/
def Obligations.UnwrittenReadsAreInternal : Prop :=
  ∀ (i : Instr) (s : State), s.seq.phase = .encoding → readsUnwritten s i →
    ∃ t, exec i s = .next t ∧ encodingErrorFrom s t 3 (BitVec.ofNat 8 (slotNum s.seq.slot))
end

