-- ==== Sys2Proof/Laws/Decode.lean ====
section
/-! SUPPORT. Each operand form is read back from its bytes, whatever follows them. -/

namespace Sys2Proof

theorem getBit_putBit (b : Bit) (r : List Byte) : getBit (putBit b ++ r) = some (b, r) := by
  cases b <;> simp [getBit, putBit]

theorem getBytes_putBytes (l r : List Byte) : getBytes (putBytes l ++ r) = some (l, r) := by
  induction l with
  | nil => cases r <;> simp [putBytes, getBytes]
  | cons b l ih => simp only [putBytes, List.cons_append, getBytes]; rw [ih]; rfl

theorem getWord_putWord_16 (v : BitVec 16) (r : List Byte) : getWord 16 (putWord v ++ r) = some (v, r) := by
  have h : v.extractLsb' 8 8 ++ v.extractLsb' 0 8 = v := by
    refine BitVec.eq_of_getLsbD_eq fun j hj => ?_
    rw [BitVec.getLsbD_append]; interval_cases j <;> simp
  have hlt := (v.extractLsb' 8 8 ++ v.extractLsb' 0 8).isLt
  simp [putWord, getWord]
  exact ⟨hlt, h⟩

theorem getWord_putWord_9 (v : BitVec 9) (r : List Byte) : getWord 9 (putWord v ++ r) = some (v, r) := by
  have h : ∀ v : BitVec 9,
      ((v.setWidth 16).extractLsb' 8 8 ++ (v.setWidth 16).extractLsb' 0 8).toNat < 2 ^ 9 ∧
        ((v.setWidth 16).extractLsb' 8 8 ++ (v.setWidth 16).extractLsb' 0 8).setWidth 9 = v := by decide +kernel
  simp only [putWord, getWord, List.cons_append, List.nil_append]
  rw [if_pos (h v).1, (h v).2]

theorem getWord_putWord_3 (v : BitVec 3) (r : List Byte) : getWord 3 (putWord v ++ r) = some (v, r) := by
  have h : ∀ v : BitVec 3,
      ((v.setWidth 16).extractLsb' 8 8 ++ (v.setWidth 16).extractLsb' 0 8).toNat < 2 ^ 3 ∧
        ((v.setWidth 16).extractLsb' 8 8 ++ (v.setWidth 16).extractLsb' 0 8).setWidth 3 = v := by decide +kernel
  simp only [putWord, getWord, List.cons_append, List.nil_append]
  rw [if_pos (h v).1, (h v).2]

theorem getRegArg_putRegArg {w : Nat} (h : ∀ (v : BitVec w) (r : List Byte), getWord w (putWord v ++ r) = some (v, r))
    (a : RegArg w) (r : List Byte) : getRegArg w (putRegArg a ++ r) = some (a, r) := by
  cases a with
  | reg => rfl
  | imm v => simp only [putRegArg, List.cons_append, getRegArg]; rw [h]; rfl

theorem getBytesArg_putBytesArg (a : BytesArg) (r : List Byte) : getBytesArg (putBytesArg a ++ r) = some (a, r) := by
  cases a with
  | imm l => simp only [putBytesArg, List.cons_append, getBytesArg]; rw [getBytes_putBytes]; rfl
  | own => rfl

theorem getInitArg_putInitArg (a : InitArg) (r : List Byte) : getInitArg (putInitArg a ++ r) = some (a, r) := by
  cases a with
  | imm v => simp only [putInitArg, List.cons_append, getInitArg]; rw [getWord_putWord_16]; rfl
  | dflt => rfl

theorem getAddrArg_putAddrArg (a : AddrArg) (r : List Byte) : getAddrArg (putAddrArg a ++ r) = some (a, r) := by
  cases a with
  | imm k s => simp [putAddrArg, getAddrArg, Callsign.toList]
  | dest => rfl
  | src => rfl

theorem place_lt (i : Instr) : i.place < 35 := by cases i <;> simp [Instr.place]

end Sys2Proof
end

