-- ==== Sys2Proof/Laws/State.lean ====
section
/-! SUPPORT. One lemma per field of State and named update, so that no proof unfolds a record update. -/

namespace Sys2Proof.Machine

/-! ### The end of an encode -/

@[simp] theorem discardEncode_cfg (s : State) : (discardEncode s).cfg = s.cfg := rfl
@[simp] theorem discardEncode_seq (s : State) : (discardEncode s).seq = s.seq := rfl
@[simp] theorem discardEncode_err (s : State) : (discardEncode s).err = s.err := rfl
@[simp] theorem discardEncode_sampleCnt (s : State) : (discardEncode s).sampleCnt = s.sampleCnt := rfl
@[simp] theorem discardEncode_crc (s : State) : (discardEncode s).crc = s.crc := rfl
@[simp] theorem discardEncode_fcs (s : State) : (discardEncode s).fcs = s.fcs := rfl
@[simp] theorem discardEncode_lfsr (s : State) : (discardEncode s).lfsr = s.lfsr := rfl
@[simp] theorem discardEncode_ones (s : State) : (discardEncode s).ones = s.ones := rfl
@[simp] theorem discardEncode_held (s : State) :
    (discardEncode s).held = { s.held with crc := false, fcs := false, lfsr := false, ones := false } := rfl
@[simp] theorem discardEncode_pb (s : State) : (discardEncode s).pb = none := rfl
@[simp] theorem discardEncode_fb (s : State) : (discardEncode s).fb = FrameBuf.empty := rfl
@[simp] theorem discardEncode_bb (s : State) : (discardEncode s).bb = BitBuf.empty := rfl
@[simp] theorem discardEncode_sb (s : State) : (discardEncode s).sb = SampleBuf.empty := rfl
@[simp] theorem discardEncode_outq (s : State) : (discardEncode s).outq = s.outq := rfl
@[simp] theorem discardEncode_encap (s : State) : (discardEncode s).encap = none := rfl
@[simp] theorem discardEncode_res (s : State) : (discardEncode s).res = .nothing := rfl
@[simp] theorem discardEncode_pushAns (s : State) : (discardEncode s).pushAns = s.pushAns := rfl
@[simp] theorem discardEncode_sampOut (s : State) : (discardEncode s).sampOut = s.sampOut := rfl
@[simp] theorem discardEncode_statOut (s : State) : (discardEncode s).statOut = s.statOut := rfl
@[simp] theorem discardEncode_cfgPort (s : State) : (discardEncode s).cfgPort = s.cfgPort := rfl
@[simp] theorem discardEncode_host (s : State) : (discardEncode s).host = s.host := rfl
@[simp] theorem discardEncode_word (s : State) : (discardEncode s).word = s.word := rfl
@[simp] theorem discardEncode_par (s : State) : (discardEncode s).par = s.par := rfl

/-! ### Raising a ConfigurationError -/

@[simp] theorem raiseConfigurationError_cfg (c : BitVec 4) (n : Byte) (s : State) :
    (raiseConfigurationError c n s).cfg = s.cfg := rfl
@[simp] theorem raiseConfigurationError_seq (c : BitVec 4) (n : Byte) (s : State) :
    (raiseConfigurationError c n s).seq = ⟨.cfgerr, .e0⟩ := rfl
@[simp] theorem raiseConfigurationError_err (c : BitVec 4) (n : Byte) (s : State) :
    (raiseConfigurationError c n s).err = errRecord s.err clsCfg c n := rfl
@[simp] theorem raiseConfigurationError_sampleCnt (c : BitVec 4) (n : Byte) (s : State) :
    (raiseConfigurationError c n s).sampleCnt = s.sampleCnt := rfl
@[simp] theorem raiseConfigurationError_crc (c : BitVec 4) (n : Byte) (s : State) :
    (raiseConfigurationError c n s).crc = s.crc := rfl
@[simp] theorem raiseConfigurationError_fcs (c : BitVec 4) (n : Byte) (s : State) :
    (raiseConfigurationError c n s).fcs = s.fcs := rfl
@[simp] theorem raiseConfigurationError_lfsr (c : BitVec 4) (n : Byte) (s : State) :
    (raiseConfigurationError c n s).lfsr = s.lfsr := rfl
@[simp] theorem raiseConfigurationError_ones (c : BitVec 4) (n : Byte) (s : State) :
    (raiseConfigurationError c n s).ones = s.ones := rfl
@[simp] theorem raiseConfigurationError_held (c : BitVec 4) (n : Byte) (s : State) :
    (raiseConfigurationError c n s).held = s.held := rfl
@[simp] theorem raiseConfigurationError_pb (c : BitVec 4) (n : Byte) (s : State) :
    (raiseConfigurationError c n s).pb = s.pb := rfl
@[simp] theorem raiseConfigurationError_fb (c : BitVec 4) (n : Byte) (s : State) :
    (raiseConfigurationError c n s).fb = s.fb := rfl
@[simp] theorem raiseConfigurationError_bb (c : BitVec 4) (n : Byte) (s : State) :
    (raiseConfigurationError c n s).bb = s.bb := rfl
@[simp] theorem raiseConfigurationError_sb (c : BitVec 4) (n : Byte) (s : State) :
    (raiseConfigurationError c n s).sb = s.sb := rfl
@[simp] theorem raiseConfigurationError_outq (c : BitVec 4) (n : Byte) (s : State) :
    (raiseConfigurationError c n s).outq = s.outq := rfl
@[simp] theorem raiseConfigurationError_encap (c : BitVec 4) (n : Byte) (s : State) :
    (raiseConfigurationError c n s).encap = s.encap := rfl
@[simp] theorem raiseConfigurationError_res (c : BitVec 4) (n : Byte) (s : State) :
    (raiseConfigurationError c n s).res = s.res := rfl
@[simp] theorem raiseConfigurationError_pushAns (c : BitVec 4) (n : Byte) (s : State) :
    (raiseConfigurationError c n s).pushAns = s.pushAns := rfl
@[simp] theorem raiseConfigurationError_sampOut (c : BitVec 4) (n : Byte) (s : State) :
    (raiseConfigurationError c n s).sampOut = s.sampOut := rfl
@[simp] theorem raiseConfigurationError_statOut (c : BitVec 4) (n : Byte) (s : State) :
    (raiseConfigurationError c n s).statOut = s.statOut := rfl
@[simp] theorem raiseConfigurationError_cfgPort (c : BitVec 4) (n : Byte) (s : State) :
    (raiseConfigurationError c n s).cfgPort = s.cfgPort := rfl
@[simp] theorem raiseConfigurationError_host (c : BitVec 4) (n : Byte) (s : State) :
    (raiseConfigurationError c n s).host = s.host := rfl
@[simp] theorem raiseConfigurationError_word (c : BitVec 4) (n : Byte) (s : State) :
    (raiseConfigurationError c n s).word = s.word := rfl
@[simp] theorem raiseConfigurationError_par (c : BitVec 4) (n : Byte) (s : State) :
    (raiseConfigurationError c n s).par = s.par := rfl

/-! ### Raising an EncodingError -/

@[simp] theorem raiseEncodingError_cfg (c : BitVec 4) (n : Byte) (s : State) :
    (raiseEncodingError c n s).cfg = s.cfg := rfl
@[simp] theorem raiseEncodingError_seq (c : BitVec 4) (n : Byte) (s : State) :
    (raiseEncodingError c n s).seq = ⟨.idle, .e0⟩ := rfl
@[simp] theorem raiseEncodingError_err (c : BitVec 4) (n : Byte) (s : State) :
    (raiseEncodingError c n s).err = errRecord s.err clsEnc c n := rfl
@[simp] theorem raiseEncodingError_sampleCnt (c : BitVec 4) (n : Byte) (s : State) :
    (raiseEncodingError c n s).sampleCnt = s.sampleCnt := rfl
@[simp] theorem raiseEncodingError_crc (c : BitVec 4) (n : Byte) (s : State) :
    (raiseEncodingError c n s).crc = s.crc := rfl
@[simp] theorem raiseEncodingError_fcs (c : BitVec 4) (n : Byte) (s : State) :
    (raiseEncodingError c n s).fcs = s.fcs := rfl
@[simp] theorem raiseEncodingError_lfsr (c : BitVec 4) (n : Byte) (s : State) :
    (raiseEncodingError c n s).lfsr = s.lfsr := rfl
@[simp] theorem raiseEncodingError_ones (c : BitVec 4) (n : Byte) (s : State) :
    (raiseEncodingError c n s).ones = s.ones := rfl
@[simp] theorem raiseEncodingError_held (c : BitVec 4) (n : Byte) (s : State) :
    (raiseEncodingError c n s).held = { s.held with crc := false, fcs := false, lfsr := false, ones := false } := rfl
@[simp] theorem raiseEncodingError_pb (c : BitVec 4) (n : Byte) (s : State) :
    (raiseEncodingError c n s).pb = none := rfl
@[simp] theorem raiseEncodingError_fb (c : BitVec 4) (n : Byte) (s : State) :
    (raiseEncodingError c n s).fb = FrameBuf.empty := rfl
@[simp] theorem raiseEncodingError_bb (c : BitVec 4) (n : Byte) (s : State) :
    (raiseEncodingError c n s).bb = BitBuf.empty := rfl
@[simp] theorem raiseEncodingError_sb (c : BitVec 4) (n : Byte) (s : State) :
    (raiseEncodingError c n s).sb = SampleBuf.empty := rfl
@[simp] theorem raiseEncodingError_outq (c : BitVec 4) (n : Byte) (s : State) :
    (raiseEncodingError c n s).outq = s.outq := rfl
@[simp] theorem raiseEncodingError_encap (c : BitVec 4) (n : Byte) (s : State) :
    (raiseEncodingError c n s).encap = none := rfl
@[simp] theorem raiseEncodingError_res (c : BitVec 4) (n : Byte) (s : State) :
    (raiseEncodingError c n s).res = .nothing := rfl
@[simp] theorem raiseEncodingError_pushAns (c : BitVec 4) (n : Byte) (s : State) :
    (raiseEncodingError c n s).pushAns = .error clsEnc c := rfl
@[simp] theorem raiseEncodingError_sampOut (c : BitVec 4) (n : Byte) (s : State) :
    (raiseEncodingError c n s).sampOut = s.sampOut := rfl
@[simp] theorem raiseEncodingError_statOut (c : BitVec 4) (n : Byte) (s : State) :
    (raiseEncodingError c n s).statOut = s.statOut := rfl
@[simp] theorem raiseEncodingError_cfgPort (c : BitVec 4) (n : Byte) (s : State) :
    (raiseEncodingError c n s).cfgPort = s.cfgPort := rfl
@[simp] theorem raiseEncodingError_host (c : BitVec 4) (n : Byte) (s : State) :
    (raiseEncodingError c n s).host = s.host := rfl
@[simp] theorem raiseEncodingError_word (c : BitVec 4) (n : Byte) (s : State) :
    (raiseEncodingError c n s).word = s.word := rfl
@[simp] theorem raiseEncodingError_par (c : BitVec 4) (n : Byte) (s : State) :
    (raiseEncodingError c n s).par = s.par := rfl

/-! ### Raising INTERNAL -/

@[simp] theorem raiseInternal_cfg (s : State) : (raiseInternal s).cfg = s.cfg := rfl
@[simp] theorem raiseInternal_seq (s : State) : (raiseInternal s).seq = ⟨.idle, .e0⟩ := rfl
@[simp] theorem raiseInternal_err (s : State) :
    (raiseInternal s).err = errRecord s.err clsEnc causeInternal (BitVec.ofNat 8 (slotNum s.seq.slot)) := rfl
@[simp] theorem raiseInternal_sampleCnt (s : State) : (raiseInternal s).sampleCnt = s.sampleCnt := rfl
@[simp] theorem raiseInternal_crc (s : State) : (raiseInternal s).crc = s.crc := rfl
@[simp] theorem raiseInternal_fcs (s : State) : (raiseInternal s).fcs = s.fcs := rfl
@[simp] theorem raiseInternal_lfsr (s : State) : (raiseInternal s).lfsr = s.lfsr := rfl
@[simp] theorem raiseInternal_ones (s : State) : (raiseInternal s).ones = s.ones := rfl
@[simp] theorem raiseInternal_held (s : State) :
    (raiseInternal s).held = { s.held with crc := false, fcs := false, lfsr := false, ones := false } := rfl
@[simp] theorem raiseInternal_pb (s : State) : (raiseInternal s).pb = none := rfl
@[simp] theorem raiseInternal_fb (s : State) : (raiseInternal s).fb = FrameBuf.empty := rfl
@[simp] theorem raiseInternal_bb (s : State) : (raiseInternal s).bb = BitBuf.empty := rfl
@[simp] theorem raiseInternal_sb (s : State) : (raiseInternal s).sb = SampleBuf.empty := rfl
@[simp] theorem raiseInternal_outq (s : State) : (raiseInternal s).outq = s.outq := rfl
@[simp] theorem raiseInternal_encap (s : State) : (raiseInternal s).encap = none := rfl
@[simp] theorem raiseInternal_res (s : State) : (raiseInternal s).res = .nothing := rfl
@[simp] theorem raiseInternal_pushAns (s : State) : (raiseInternal s).pushAns = .error clsEnc causeInternal := rfl
@[simp] theorem raiseInternal_sampOut (s : State) : (raiseInternal s).sampOut = s.sampOut := rfl
@[simp] theorem raiseInternal_statOut (s : State) : (raiseInternal s).statOut = s.statOut := rfl
@[simp] theorem raiseInternal_cfgPort (s : State) : (raiseInternal s).cfgPort = s.cfgPort := rfl
@[simp] theorem raiseInternal_host (s : State) : (raiseInternal s).host = s.host := rfl
@[simp] theorem raiseInternal_word (s : State) : (raiseInternal s).word = s.word := rfl
@[simp] theorem raiseInternal_par (s : State) : (raiseInternal s).par = s.par := rfl

/-! ### Writing CRC -/

@[simp] theorem setCrc_cfg (v : BitVec 16) (s : State) : (setCrc v s).cfg = s.cfg := rfl
@[simp] theorem setCrc_seq (v : BitVec 16) (s : State) : (setCrc v s).seq = s.seq := rfl
@[simp] theorem setCrc_err (v : BitVec 16) (s : State) : (setCrc v s).err = s.err := rfl
@[simp] theorem setCrc_sampleCnt (v : BitVec 16) (s : State) : (setCrc v s).sampleCnt = s.sampleCnt := rfl
@[simp] theorem setCrc_crc (v : BitVec 16) (s : State) : (setCrc v s).crc = v := rfl
@[simp] theorem setCrc_fcs (v : BitVec 16) (s : State) : (setCrc v s).fcs = s.fcs := rfl
@[simp] theorem setCrc_lfsr (v : BitVec 16) (s : State) : (setCrc v s).lfsr = s.lfsr := rfl
@[simp] theorem setCrc_ones (v : BitVec 16) (s : State) : (setCrc v s).ones = s.ones := rfl
@[simp] theorem setCrc_held (v : BitVec 16) (s : State) : (setCrc v s).held = { s.held with crc := true } := rfl
@[simp] theorem setCrc_pb (v : BitVec 16) (s : State) : (setCrc v s).pb = s.pb := rfl
@[simp] theorem setCrc_fb (v : BitVec 16) (s : State) : (setCrc v s).fb = s.fb := rfl
@[simp] theorem setCrc_bb (v : BitVec 16) (s : State) : (setCrc v s).bb = s.bb := rfl
@[simp] theorem setCrc_sb (v : BitVec 16) (s : State) : (setCrc v s).sb = s.sb := rfl
@[simp] theorem setCrc_outq (v : BitVec 16) (s : State) : (setCrc v s).outq = s.outq := rfl
@[simp] theorem setCrc_encap (v : BitVec 16) (s : State) : (setCrc v s).encap = s.encap := rfl
@[simp] theorem setCrc_res (v : BitVec 16) (s : State) : (setCrc v s).res = s.res := rfl
@[simp] theorem setCrc_pushAns (v : BitVec 16) (s : State) : (setCrc v s).pushAns = s.pushAns := rfl
@[simp] theorem setCrc_sampOut (v : BitVec 16) (s : State) : (setCrc v s).sampOut = s.sampOut := rfl
@[simp] theorem setCrc_statOut (v : BitVec 16) (s : State) : (setCrc v s).statOut = s.statOut := rfl
@[simp] theorem setCrc_cfgPort (v : BitVec 16) (s : State) : (setCrc v s).cfgPort = s.cfgPort := rfl
@[simp] theorem setCrc_host (v : BitVec 16) (s : State) : (setCrc v s).host = s.host := rfl
@[simp] theorem setCrc_word (v : BitVec 16) (s : State) : (setCrc v s).word = s.word := rfl
@[simp] theorem setCrc_par (v : BitVec 16) (s : State) : (setCrc v s).par = s.par := rfl

/-! ### Writing FCS -/

@[simp] theorem setFcs_cfg (v : BitVec 16) (s : State) : (setFcs v s).cfg = s.cfg := rfl
@[simp] theorem setFcs_seq (v : BitVec 16) (s : State) : (setFcs v s).seq = s.seq := rfl
@[simp] theorem setFcs_err (v : BitVec 16) (s : State) : (setFcs v s).err = s.err := rfl
@[simp] theorem setFcs_sampleCnt (v : BitVec 16) (s : State) : (setFcs v s).sampleCnt = s.sampleCnt := rfl
@[simp] theorem setFcs_crc (v : BitVec 16) (s : State) : (setFcs v s).crc = s.crc := rfl
@[simp] theorem setFcs_fcs (v : BitVec 16) (s : State) : (setFcs v s).fcs = v := rfl
@[simp] theorem setFcs_lfsr (v : BitVec 16) (s : State) : (setFcs v s).lfsr = s.lfsr := rfl
@[simp] theorem setFcs_ones (v : BitVec 16) (s : State) : (setFcs v s).ones = s.ones := rfl
@[simp] theorem setFcs_held (v : BitVec 16) (s : State) : (setFcs v s).held = { s.held with fcs := true } := rfl
@[simp] theorem setFcs_pb (v : BitVec 16) (s : State) : (setFcs v s).pb = s.pb := rfl
@[simp] theorem setFcs_fb (v : BitVec 16) (s : State) : (setFcs v s).fb = s.fb := rfl
@[simp] theorem setFcs_bb (v : BitVec 16) (s : State) : (setFcs v s).bb = s.bb := rfl
@[simp] theorem setFcs_sb (v : BitVec 16) (s : State) : (setFcs v s).sb = s.sb := rfl
@[simp] theorem setFcs_outq (v : BitVec 16) (s : State) : (setFcs v s).outq = s.outq := rfl
@[simp] theorem setFcs_encap (v : BitVec 16) (s : State) : (setFcs v s).encap = s.encap := rfl
@[simp] theorem setFcs_res (v : BitVec 16) (s : State) : (setFcs v s).res = s.res := rfl
@[simp] theorem setFcs_pushAns (v : BitVec 16) (s : State) : (setFcs v s).pushAns = s.pushAns := rfl
@[simp] theorem setFcs_sampOut (v : BitVec 16) (s : State) : (setFcs v s).sampOut = s.sampOut := rfl
@[simp] theorem setFcs_statOut (v : BitVec 16) (s : State) : (setFcs v s).statOut = s.statOut := rfl
@[simp] theorem setFcs_cfgPort (v : BitVec 16) (s : State) : (setFcs v s).cfgPort = s.cfgPort := rfl
@[simp] theorem setFcs_host (v : BitVec 16) (s : State) : (setFcs v s).host = s.host := rfl
@[simp] theorem setFcs_word (v : BitVec 16) (s : State) : (setFcs v s).word = s.word := rfl
@[simp] theorem setFcs_par (v : BitVec 16) (s : State) : (setFcs v s).par = s.par := rfl

/-! ### Writing LFSR -/

@[simp] theorem setLfsr_cfg (v : BitVec 9) (s : State) : (setLfsr v s).cfg = s.cfg := rfl
@[simp] theorem setLfsr_seq (v : BitVec 9) (s : State) : (setLfsr v s).seq = s.seq := rfl
@[simp] theorem setLfsr_err (v : BitVec 9) (s : State) : (setLfsr v s).err = s.err := rfl
@[simp] theorem setLfsr_sampleCnt (v : BitVec 9) (s : State) : (setLfsr v s).sampleCnt = s.sampleCnt := rfl
@[simp] theorem setLfsr_crc (v : BitVec 9) (s : State) : (setLfsr v s).crc = s.crc := rfl
@[simp] theorem setLfsr_fcs (v : BitVec 9) (s : State) : (setLfsr v s).fcs = s.fcs := rfl
@[simp] theorem setLfsr_lfsr (v : BitVec 9) (s : State) : (setLfsr v s).lfsr = v := rfl
@[simp] theorem setLfsr_ones (v : BitVec 9) (s : State) : (setLfsr v s).ones = s.ones := rfl
@[simp] theorem setLfsr_held (v : BitVec 9) (s : State) : (setLfsr v s).held = { s.held with lfsr := true } := rfl
@[simp] theorem setLfsr_pb (v : BitVec 9) (s : State) : (setLfsr v s).pb = s.pb := rfl
@[simp] theorem setLfsr_fb (v : BitVec 9) (s : State) : (setLfsr v s).fb = s.fb := rfl
@[simp] theorem setLfsr_bb (v : BitVec 9) (s : State) : (setLfsr v s).bb = s.bb := rfl
@[simp] theorem setLfsr_sb (v : BitVec 9) (s : State) : (setLfsr v s).sb = s.sb := rfl
@[simp] theorem setLfsr_outq (v : BitVec 9) (s : State) : (setLfsr v s).outq = s.outq := rfl
@[simp] theorem setLfsr_encap (v : BitVec 9) (s : State) : (setLfsr v s).encap = s.encap := rfl
@[simp] theorem setLfsr_res (v : BitVec 9) (s : State) : (setLfsr v s).res = s.res := rfl
@[simp] theorem setLfsr_pushAns (v : BitVec 9) (s : State) : (setLfsr v s).pushAns = s.pushAns := rfl
@[simp] theorem setLfsr_sampOut (v : BitVec 9) (s : State) : (setLfsr v s).sampOut = s.sampOut := rfl
@[simp] theorem setLfsr_statOut (v : BitVec 9) (s : State) : (setLfsr v s).statOut = s.statOut := rfl
@[simp] theorem setLfsr_cfgPort (v : BitVec 9) (s : State) : (setLfsr v s).cfgPort = s.cfgPort := rfl
@[simp] theorem setLfsr_host (v : BitVec 9) (s : State) : (setLfsr v s).host = s.host := rfl
@[simp] theorem setLfsr_word (v : BitVec 9) (s : State) : (setLfsr v s).word = s.word := rfl
@[simp] theorem setLfsr_par (v : BitVec 9) (s : State) : (setLfsr v s).par = s.par := rfl

/-! ### Writing ONES -/

@[simp] theorem setOnes_cfg (v : BitVec 3) (s : State) : (setOnes v s).cfg = s.cfg := rfl
@[simp] theorem setOnes_seq (v : BitVec 3) (s : State) : (setOnes v s).seq = s.seq := rfl
@[simp] theorem setOnes_err (v : BitVec 3) (s : State) : (setOnes v s).err = s.err := rfl
@[simp] theorem setOnes_sampleCnt (v : BitVec 3) (s : State) : (setOnes v s).sampleCnt = s.sampleCnt := rfl
@[simp] theorem setOnes_crc (v : BitVec 3) (s : State) : (setOnes v s).crc = s.crc := rfl
@[simp] theorem setOnes_fcs (v : BitVec 3) (s : State) : (setOnes v s).fcs = s.fcs := rfl
@[simp] theorem setOnes_lfsr (v : BitVec 3) (s : State) : (setOnes v s).lfsr = s.lfsr := rfl
@[simp] theorem setOnes_ones (v : BitVec 3) (s : State) : (setOnes v s).ones = v := rfl
@[simp] theorem setOnes_held (v : BitVec 3) (s : State) : (setOnes v s).held = { s.held with ones := true } := rfl
@[simp] theorem setOnes_pb (v : BitVec 3) (s : State) : (setOnes v s).pb = s.pb := rfl
@[simp] theorem setOnes_fb (v : BitVec 3) (s : State) : (setOnes v s).fb = s.fb := rfl
@[simp] theorem setOnes_bb (v : BitVec 3) (s : State) : (setOnes v s).bb = s.bb := rfl
@[simp] theorem setOnes_sb (v : BitVec 3) (s : State) : (setOnes v s).sb = s.sb := rfl
@[simp] theorem setOnes_outq (v : BitVec 3) (s : State) : (setOnes v s).outq = s.outq := rfl
@[simp] theorem setOnes_encap (v : BitVec 3) (s : State) : (setOnes v s).encap = s.encap := rfl
@[simp] theorem setOnes_res (v : BitVec 3) (s : State) : (setOnes v s).res = s.res := rfl
@[simp] theorem setOnes_pushAns (v : BitVec 3) (s : State) : (setOnes v s).pushAns = s.pushAns := rfl
@[simp] theorem setOnes_sampOut (v : BitVec 3) (s : State) : (setOnes v s).sampOut = s.sampOut := rfl
@[simp] theorem setOnes_statOut (v : BitVec 3) (s : State) : (setOnes v s).statOut = s.statOut := rfl
@[simp] theorem setOnes_cfgPort (v : BitVec 3) (s : State) : (setOnes v s).cfgPort = s.cfgPort := rfl
@[simp] theorem setOnes_host (v : BitVec 3) (s : State) : (setOnes v s).host = s.host := rfl
@[simp] theorem setOnes_word (v : BitVec 3) (s : State) : (setOnes v s).word = s.word := rfl
@[simp] theorem setOnes_par (v : BitVec 3) (s : State) : (setOnes v s).par = s.par := rfl

/-! ### A move of the host used up -/

@[simp] theorem hostTaken_cfg (s : State) : (hostTaken s).cfg = s.cfg := rfl
@[simp] theorem hostTaken_seq (s : State) : (hostTaken s).seq = s.seq := rfl
@[simp] theorem hostTaken_err (s : State) : (hostTaken s).err = s.err := rfl
@[simp] theorem hostTaken_sampleCnt (s : State) : (hostTaken s).sampleCnt = s.sampleCnt := rfl
@[simp] theorem hostTaken_crc (s : State) : (hostTaken s).crc = s.crc := rfl
@[simp] theorem hostTaken_fcs (s : State) : (hostTaken s).fcs = s.fcs := rfl
@[simp] theorem hostTaken_lfsr (s : State) : (hostTaken s).lfsr = s.lfsr := rfl
@[simp] theorem hostTaken_ones (s : State) : (hostTaken s).ones = s.ones := rfl
@[simp] theorem hostTaken_held (s : State) : (hostTaken s).held = s.held := rfl
@[simp] theorem hostTaken_pb (s : State) : (hostTaken s).pb = s.pb := rfl
@[simp] theorem hostTaken_fb (s : State) : (hostTaken s).fb = s.fb := rfl
@[simp] theorem hostTaken_bb (s : State) : (hostTaken s).bb = s.bb := rfl
@[simp] theorem hostTaken_sb (s : State) : (hostTaken s).sb = s.sb := rfl
@[simp] theorem hostTaken_outq (s : State) : (hostTaken s).outq = s.outq := rfl
@[simp] theorem hostTaken_encap (s : State) : (hostTaken s).encap = s.encap := rfl
@[simp] theorem hostTaken_res (s : State) : (hostTaken s).res = s.res := rfl
@[simp] theorem hostTaken_pushAns (s : State) : (hostTaken s).pushAns = s.pushAns := rfl
@[simp] theorem hostTaken_sampOut (s : State) : (hostTaken s).sampOut = s.sampOut := rfl
@[simp] theorem hostTaken_statOut (s : State) : (hostTaken s).statOut = s.statOut := rfl
@[simp] theorem hostTaken_cfgPort (s : State) : (hostTaken s).cfgPort = s.cfgPort := rfl
@[simp] theorem hostTaken_host (s : State) : (hostTaken s).host = s.host.tail := rfl
@[simp] theorem hostTaken_word (s : State) : (hostTaken s).word = s.word := rfl
@[simp] theorem hostTaken_par (s : State) : (hostTaken s).par = s.par := rfl

/-! ### A word given for itself used up -/

@[simp] theorem wordTaken_cfg (s : State) : (wordTaken s).cfg = s.cfg := rfl
@[simp] theorem wordTaken_seq (s : State) : (wordTaken s).seq = s.seq := rfl
@[simp] theorem wordTaken_err (s : State) : (wordTaken s).err = s.err := rfl
@[simp] theorem wordTaken_sampleCnt (s : State) : (wordTaken s).sampleCnt = s.sampleCnt := rfl
@[simp] theorem wordTaken_crc (s : State) : (wordTaken s).crc = s.crc := rfl
@[simp] theorem wordTaken_fcs (s : State) : (wordTaken s).fcs = s.fcs := rfl
@[simp] theorem wordTaken_lfsr (s : State) : (wordTaken s).lfsr = s.lfsr := rfl
@[simp] theorem wordTaken_ones (s : State) : (wordTaken s).ones = s.ones := rfl
@[simp] theorem wordTaken_held (s : State) : (wordTaken s).held = s.held := rfl
@[simp] theorem wordTaken_pb (s : State) : (wordTaken s).pb = s.pb := rfl
@[simp] theorem wordTaken_fb (s : State) : (wordTaken s).fb = s.fb := rfl
@[simp] theorem wordTaken_bb (s : State) : (wordTaken s).bb = s.bb := rfl
@[simp] theorem wordTaken_sb (s : State) : (wordTaken s).sb = s.sb := rfl
@[simp] theorem wordTaken_outq (s : State) : (wordTaken s).outq = s.outq := rfl
@[simp] theorem wordTaken_encap (s : State) : (wordTaken s).encap = s.encap := rfl
@[simp] theorem wordTaken_res (s : State) : (wordTaken s).res = s.res := rfl
@[simp] theorem wordTaken_pushAns (s : State) : (wordTaken s).pushAns = s.pushAns := rfl
@[simp] theorem wordTaken_sampOut (s : State) : (wordTaken s).sampOut = s.sampOut := rfl
@[simp] theorem wordTaken_statOut (s : State) : (wordTaken s).statOut = s.statOut := rfl
@[simp] theorem wordTaken_cfgPort (s : State) : (wordTaken s).cfgPort = s.cfgPort := rfl
@[simp] theorem wordTaken_host (s : State) : (wordTaken s).host = s.host := rfl
@[simp] theorem wordTaken_word (s : State) : (wordTaken s).word = none := rfl
@[simp] theorem wordTaken_par (s : State) : (wordTaken s).par = s.par := rfl

end Sys2Proof.Machine
end

