-- ==== Sys2Proof/Laws/Ops.lean ====
section
/-! SUPPORT. What each shared operation can do, said once: the two shapes of an operation of ENCODE, the completion of a
slot, the access primitives, and one step. -/

namespace Sys2Proof.Machine

/-! ### Access primitives (R73) -/

theorem memRead_some {α : Type} {buf l : List α} {i n : Nat} (h : memRead buf i n = some l) :
    i + n ≤ buf.length ∧ l = (buf.drop i).take n := by
  unfold memRead at h
  split at h
  · exact ⟨‹_›, (Option.some.inj h).symm⟩
  · cases h

theorem memRead_length {α : Type} {buf l : List α} {i n : Nat} (h : memRead buf i n = some l) : l.length = n := by
  obtain ⟨hle, rfl⟩ := memRead_some h
  simp
  omega

theorem memRead_all {α : Type} (buf : List α) : memRead buf 0 buf.length = some buf := by simp [memRead]

/-- Overwriting a whole buffer with a sequence of its length. -/
theorem memWrite_all {α : Type} (buf v : List α) (h : v.length = buf.length) :
    memWrite buf 0 buf.length v = some v := by
  simp [memWrite, h]

/-! ### Completing a slot -/

@[simp] theorem elseEffect_seq (k : Slot) (s : State) : (elseEffect k s).seq = s.seq := by cases k <;> rfl
@[simp] theorem elseEffect_cfg (k : Slot) (s : State) : (elseEffect k s).cfg = s.cfg := by cases k <;> rfl

/-- The "else" of a slot writes FB.CRC and BB.LINE only. -/
theorem elseEffect_frame (k : Slot) (s : State) :
    ∃ c l, elseEffect k s = { s with fb := { s.fb with crc := c }, bb := { s.bb with line := l } } := by
  cases k
  case e3 => exact ⟨[], s.bb.line, rfl⟩
  case e7 => exact ⟨s.fb.crc, plainLine s.bb, rfl⟩
  all_goals exact ⟨s.fb.crc, s.bb.line, rfl⟩

theorem elseIfSkipped_frame (k : Slot) (j : Seq) (x : Slot) (s : State) :
    ∃ c l, elseIfSkipped k j x s = { s with fb := { s.fb with crc := c }, bb := { s.bb with line := l } } := by
  unfold elseIfSkipped
  split
  · exact elseEffect_frame x s
  · exact ⟨s.fb.crc, s.bb.line, rfl⟩

/-- Completing a slot writes SEQ, and beside it FB.CRC and BB.LINE only. -/
theorem completeSlot_frame (k : Slot) (s : State) :
    ∃ c l, completeSlot k s =
      { s with seq := nextSeq s.cfg.cr0 k, fb := { s.fb with crc := c }, bb := { s.bb with line := l } } := by
  unfold completeSlot
  obtain ⟨c, l, h⟩ := elseIfSkipped_frame k (nextSeq s.cfg.cr0 k) .e3 s
  obtain ⟨c', l', h'⟩ := elseIfSkipped_frame k (nextSeq s.cfg.cr0 k) .e7
    { s with fb := { s.fb with crc := c }, bb := { s.bb with line := l } }
  exact ⟨c', l', by simp only [h, h']⟩

@[simp] theorem completeSlot_seq (k : Slot) (s : State) : (completeSlot k s).seq = nextSeq s.cfg.cr0 k := rfl

@[simp] theorem completeSlot_cfg (k : Slot) (s : State) : (completeSlot k s).cfg = s.cfg := by
  obtain ⟨c, l, h⟩ := completeSlot_frame k s; rw [h]
@[simp] theorem completeSlot_err (k : Slot) (s : State) : (completeSlot k s).err = s.err := by
  obtain ⟨c, l, h⟩ := completeSlot_frame k s; rw [h]
@[simp] theorem completeSlot_sampleCnt (k : Slot) (s : State) : (completeSlot k s).sampleCnt = s.sampleCnt := by
  obtain ⟨c, l, h⟩ := completeSlot_frame k s; rw [h]
@[simp] theorem completeSlot_crc (k : Slot) (s : State) : (completeSlot k s).crc = s.crc := by
  obtain ⟨c, l, h⟩ := completeSlot_frame k s; rw [h]
@[simp] theorem completeSlot_fcs (k : Slot) (s : State) : (completeSlot k s).fcs = s.fcs := by
  obtain ⟨c, l, h⟩ := completeSlot_frame k s; rw [h]
@[simp] theorem completeSlot_lfsr (k : Slot) (s : State) : (completeSlot k s).lfsr = s.lfsr := by
  obtain ⟨c, l, h⟩ := completeSlot_frame k s; rw [h]
@[simp] theorem completeSlot_ones (k : Slot) (s : State) : (completeSlot k s).ones = s.ones := by
  obtain ⟨c, l, h⟩ := completeSlot_frame k s; rw [h]
@[simp] theorem completeSlot_held (k : Slot) (s : State) : (completeSlot k s).held = s.held := by
  obtain ⟨c, l, h⟩ := completeSlot_frame k s; rw [h]
@[simp] theorem completeSlot_pb (k : Slot) (s : State) : (completeSlot k s).pb = s.pb := by
  obtain ⟨c, l, h⟩ := completeSlot_frame k s; rw [h]
@[simp] theorem completeSlot_sb (k : Slot) (s : State) : (completeSlot k s).sb = s.sb := by
  obtain ⟨c, l, h⟩ := completeSlot_frame k s; rw [h]
@[simp] theorem completeSlot_outq (k : Slot) (s : State) : (completeSlot k s).outq = s.outq := by
  obtain ⟨c, l, h⟩ := completeSlot_frame k s; rw [h]
@[simp] theorem completeSlot_encap (k : Slot) (s : State) : (completeSlot k s).encap = s.encap := by
  obtain ⟨c, l, h⟩ := completeSlot_frame k s; rw [h]
@[simp] theorem completeSlot_res (k : Slot) (s : State) : (completeSlot k s).res = s.res := by
  obtain ⟨c, l, h⟩ := completeSlot_frame k s; rw [h]
@[simp] theorem completeSlot_pushAns (k : Slot) (s : State) : (completeSlot k s).pushAns = s.pushAns := by
  obtain ⟨c, l, h⟩ := completeSlot_frame k s; rw [h]
@[simp] theorem completeSlot_sampOut (k : Slot) (s : State) : (completeSlot k s).sampOut = s.sampOut := by
  obtain ⟨c, l, h⟩ := completeSlot_frame k s; rw [h]
@[simp] theorem completeSlot_statOut (k : Slot) (s : State) : (completeSlot k s).statOut = s.statOut := by
  obtain ⟨c, l, h⟩ := completeSlot_frame k s; rw [h]
@[simp] theorem completeSlot_cfgPort (k : Slot) (s : State) : (completeSlot k s).cfgPort = s.cfgPort := by
  obtain ⟨c, l, h⟩ := completeSlot_frame k s; rw [h]
@[simp] theorem completeSlot_host (k : Slot) (s : State) : (completeSlot k s).host = s.host := by
  obtain ⟨c, l, h⟩ := completeSlot_frame k s; rw [h]
@[simp] theorem completeSlot_word (k : Slot) (s : State) : (completeSlot k s).word = s.word := by
  obtain ⟨c, l, h⟩ := completeSlot_frame k s; rw [h]
@[simp] theorem completeSlot_par (k : Slot) (s : State) : (completeSlot k s).par = s.par := by
  obtain ⟨c, l, h⟩ := completeSlot_frame k s; rw [h]

/-- Where SEQ goes next is a legal value of SEQ. -/
theorem nextSeq_cases (f : Byte) (k : Slot) :
    nextSeq f k = ⟨.idle, .e0⟩ ∨ ∃ j, j ≠ .e0 ∧ slotNum k < slotNum j ∧ slotRuns f j = true ∧
      nextSeq f k = ⟨.encoding, j⟩ := by
  unfold nextSeq
  split
  · rename_i j hj
    have h := List.find?_some hj
    simp only [Bool.and_eq_true, decide_eq_true_eq] at h
    refine .inr ⟨j, ?_, h.1, h.2, rfl⟩
    rintro rfl
    exact absurd h.1 (by simp [slotNum])
  · exact .inl rfl

/-- The slot after each slot, from the flags (R225). -/
theorem nextSeq_eq (f : Byte) (k : Slot) :
    nextSeq f k = match k with
      | .e0 => ⟨.encoding, .e1⟩
      | .e1 => ⟨.encoding, .e2⟩
      | .e2 => ⟨.encoding, if flagAppendCrc f then .e3 else if flagWhitening f then .e4 else .e5⟩
      | .e3 => ⟨.encoding, if flagWhitening f then .e4 else .e5⟩
      | .e4 => ⟨.encoding, .e5⟩
      | .e5 => ⟨.encoding, if flagAx25 f then .e6 else if flagManchester f then .e7 else .e8⟩
      | .e6 => ⟨.encoding, if flagManchester f then .e7 else .e8⟩
      | .e7 => ⟨.encoding, .e8⟩
      | .e8 => ⟨.encoding, .e9⟩
      | .e9 => ⟨.encoding, .e10⟩
      | .e10 => ⟨.idle, .e0⟩ := by
  cases k <;> revert f <;> decide +kernel

/-! ### The error record -/

theorem errRecord_fields (e : BitVec 16) (cls : BitVec 2) (cause : BitVec 4) (info : Byte) :
    errCfg (errRecord e cls cause info) = (errCfg e || cls == clsCfg) ∧
      errEnc (errRecord e cls cause info) = (errEnc e || cls == clsEnc) ∧
      errClass (errRecord e cls cause info) = cls ∧ errCause (errRecord e cls cause info) = cause ∧
      errInfo (errRecord e cls cause info) = info := by
  unfold errRecord
  generalize (errCfg e || cls == clsCfg) = a
  generalize (errEnc e || cls == clsEnc) = b
  unfold errCfg errEnc errClass errCause errInfo
  refine ⟨?_, ?_, ?_, ?_, ?_⟩
  · simp only [BitVec.getLsbD_append]; simp
  · simp only [BitVec.getLsbD_append]; simp
  all_goals
    refine BitVec.eq_of_getLsbD_eq fun j hj => ?_
    rw [BitVec.getLsbD_extractLsb', BitVec.getLsbD_append, BitVec.getLsbD_append, BitVec.getLsbD_append,
      BitVec.getLsbD_append]
    interval_cases j <;> simp

/-! ### An operation of a slot -/

theorem slotOp_run {k : Slot} {last : Bool} {f : State → Option State} {s t : State}
    (h : s.seq = ⟨.encoding, k⟩) (hf : f s = some t) :
    slotOp k true last f s = if last then completeSlot k t else t := by
  simp [slotOp, h, hf]

theorem slotOp_raise {k : Slot} {last : Bool} {f : State → Option State} {s : State}
    (h : s.seq = ⟨.encoding, k⟩) (hf : f s = none) : slotOp k true last f s = raiseInternal s := by
  simp [slotOp, h, hf]

theorem slotOp_elsewhere {k : Slot} {on last : Bool} {f : State → Option State} {s : State}
    (h : s.seq ≠ ⟨.encoding, k⟩) : slotOp k on last f s = s := by
  simp [slotOp, h]

/-- Everything an operation of slot `k` can do. -/
theorem slotOp_cases (k : Slot) (on last : Bool) (f : State → Option State) (s : State) :
    (s.seq ≠ ⟨.encoding, k⟩ ∧ slotOp k on last f s = s) ∨
    (s.seq = ⟨.encoding, k⟩ ∧
      ((on = true ∧ f s = none ∧ slotOp k on last f s = raiseInternal s) ∨
       (∃ t, on = true ∧ f s = some t ∧ slotOp k on last f s = if last then completeSlot k t else t) ∨
       (on = false ∧ slotOp k on last f s = if last then completeSlot k (elseEffect k s) else s))) := by
  by_cases h : s.seq = ⟨.encoding, k⟩
  · refine .inr ⟨h, ?_⟩
    cases on
    · exact .inr (.inr ⟨rfl, by simp [slotOp, h]⟩)
    · cases hf : f s with
      | none => exact .inl ⟨rfl, rfl, slotOp_raise h hf⟩
      | some t => exact .inr (.inl ⟨t, rfl, rfl, slotOp_run h hf⟩)
  · exact .inl ⟨h, slotOp_elsewhere h⟩

/-! ### A sub-operation -/

theorem subOp_run {on : Bool} {f : State → Option State} {s t : State} (h : s.seq.phase = .encoding)
    (hon : on = true) (hf : f s = some t) : subOp on f s = t := by
  simp [subOp, State.encoding, h, hon, hf]

/-- Everything a sub-operation can do. -/
theorem subOp_cases (on : Bool) (f : State → Option State) (s : State) :
    subOp on f s = s ∨
    (s.seq.phase = .encoding ∧ on = true ∧
      ((f s = none ∧ subOp on f s = raiseInternal s) ∨ ∃ t, f s = some t ∧ subOp on f s = t)) := by
  unfold subOp
  split
  · rename_i h
    simp only [State.encoding, Bool.and_eq_true, beq_iff_eq] at h
    refine .inr ⟨h.1, h.2, ?_⟩
    cases hf : f s with
    | none => exact .inl ⟨rfl, rfl⟩
    | some t => exact .inr ⟨t, rfl, rfl⟩
  · exact .inl rfl

/-! ### One step -/

theorem step_word {s : State} {l : List Byte} (h : s.word = some l) : step s = wordStep l (wordTaken s) := by
  simp [step, h]

theorem step_host {s : State} {m : HostMove} {r : List HostMove} (hw : s.word = none) (h : s.host = m :: r) :
    step s = hostMove m (hostTaken s) := by
  simp [step, hw, h]

theorem step_nil {s : State} (hw : s.word = none) (h : s.host = []) : step s = coreStep s := by
  simp [step, hw, h]

/-- The core waits only in phase IDLE or CFGERR. -/
theorem coreMove_idle {s : State} (h : coreMove s = .idle) : s.seq.phase = .idle ∨ s.seq.phase = .cfgerr := by
  unfold coreMove at h
  cases hph : s.seq.phase with
  | idle => exact .inl rfl
  | cfgerr => exact .inr rfl
  | reset => rw [hph] at h; cases h
  | encoding =>
    rw [hph] at h
    cases hs : s.seq.slot <;> simp only [hs] at h <;> (try split at h) <;> cases h

/-- Everything a move of the core that goes on can be: an operation run, or the core waiting. -/
theorem coreStep_next_cases {s t : State} (h : coreStep s = .next t) :
    (∃ i, coreMove s = .run i ∧ exec i s = .next t) ∨
    (t = s ∧ (s.seq.phase = .idle ∨ s.seq.phase = .cfgerr)) := by
  unfold coreStep at h
  cases hm : coreMove s with
  | run i => rw [hm] at h; exact .inl ⟨i, rfl, h⟩
  | illegal => rw [hm] at h; cases h
  | idle => rw [hm] at h; cases h; exact .inr ⟨rfl, coreMove_idle hm⟩

/-- Everything a move of the host that goes on can be: an operation run, port `cfg` driven, the status read, or the core
waiting. -/
theorem hostMove_next_cases {m : HostMove} {s t : State} (h : hostMove m s = .next t) :
    (∃ i, exec i s = .next t) ∨ (∃ v, t = { s with cfgPort := v }) ∨ t = { s with statOut := some s.status } ∨
    (t = s ∧ (s.seq.phase = .idle ∨ s.seq.phase = .cfgerr)) := by
  cases m with
  | wait =>
    rcases coreStep_next_cases h with ⟨i, -, hi⟩ | hi
    · exact .inl ⟨i, hi⟩
    · exact .inr (.inr (.inr hi))
  | reset => exact .inl ⟨.reset, h⟩
  | push p => exact .inl ⟨.pduAccept p, h⟩
  | pop => exact .inl ⟨.samplePop, h⟩
  | drive v => cases h; exact .inr (.inl ⟨v, rfl⟩)
  | status => cases h; exact .inr (.inr (.inl rfl))

/-- Everything a step that goes on can be. `u` is `s` with what the step takes used up. -/
theorem step_next_cases {s t : State} (h : step s = .next t) :
    ∃ u, (u = s ∨ u = hostTaken s ∨ u = wordTaken s) ∧
      ((∃ i, exec i u = .next t) ∨ (∃ v, t = { u with cfgPort := v }) ∨ t = { u with statOut := some u.status } ∨
        (t = u ∧ (u.seq.phase = .idle ∨ u.seq.phase = .cfgerr))) := by
  cases hw : s.word with
  | some l =>
    rw [step_word hw] at h
    unfold wordStep at h
    split at h
    · exact ⟨_, .inr (.inr rfl), .inl ⟨_, h⟩⟩
    · cases h
  | none =>
    cases hh : s.host with
    | nil =>
      rw [step_nil hw hh] at h
      rcases coreStep_next_cases h with ⟨i, -, hi⟩ | hi
      · exact ⟨_, .inl rfl, .inl ⟨i, hi⟩⟩
      · exact ⟨_, .inl rfl, .inr (.inr (.inr hi))⟩
    | cons m r =>
      rw [step_host hw hh] at h
      exact ⟨_, .inr (.inl rfl), hostMove_next_cases h⟩

end Sys2Proof.Machine
end

