-- ==== Sys2Proof/Laws/PerInstr.lean ====
section
/-! SUPPORT. Families of statements about every operation as syntax. -/

namespace Sys2Proof.Laws.WordForm

/-- The word of an operation is its row's match word, its row's place, and operand bytes; the row enables its own match
word, whose reserved bits are clear (R97, R103). -/
def Statement (i : Instr) : Prop :=
  encode i = i.row.pat :: BitVec.ofNat 8 i.place :: i.operandBytes ∧ opMap[i.place]? = some i.row ∧
    i.row.enables i.row.pat = true ∧ reservedClear i.row.pat = true

/-- One proof for every place of the operation map. -/
theorem of_place {i : Instr} (n : Nat) (h : i.place = n) (hn : n < 35) : Statement i := by
  have key : ∀ n < 35, opMap[n]? = some (opMap.getD n ⟨"", 0x00, 0x00, none⟩) ∧
      (opMap.getD n ⟨"", 0x00, 0x00, none⟩).enables (opMap.getD n ⟨"", 0x00, 0x00, none⟩).pat = true ∧
      reservedClear (opMap.getD n ⟨"", 0x00, 0x00, none⟩).pat = true := by decide
  subst h
  exact ⟨rfl, key _ hn⟩

theorem reset : Statement .reset := of_place 0 rfl (by decide)
theorem cfgLoad : Statement .cfgLoad := of_place 1 rfl (by decide)
theorem pduAccept (p : List Byte) : Statement (.pduAccept p) := of_place 2 rfl (by decide)
theorem encode : Statement .encode := of_place 3 rfl (by decide)
theorem frmPre : Statement .frmPre := of_place 4 rfl (by decide)
theorem frmSync : Statement .frmSync := of_place 5 rfl (by decide)
theorem ax25Encap : Statement .ax25Encap := of_place 6 rfl (by decide)
theorem ax25Addr (a : AddrArg) (last : Bit) : Statement (.ax25Addr a last) := of_place 7 rfl (by decide)
theorem ax25Hdr (p : BytesArg) : Statement (.ax25Hdr p) := of_place 8 rfl (by decide)
theorem fcsInit : Statement .fcsInit := of_place 9 rfl (by decide)
theorem fcsBit (f : RegArg 16) (b : Bit) : Statement (.fcsBit f b) := of_place 10 rfl (by decide)
theorem fcsByte (f : RegArg 16) (x : Byte) : Statement (.fcsByte f x) := of_place 11 rfl (by decide)
theorem ax25Fcs (h : BytesArg) : Statement (.ax25Fcs h) := of_place 12 rfl (by decide)
theorem frmBody : Statement .frmBody := of_place 13 rfl (by decide)
theorem crc16Append : Statement .crc16Append := of_place 14 rfl (by decide)
theorem crc16Init : Statement .crc16Init := of_place 15 rfl (by decide)
theorem crc16Bit (c : RegArg 16) (b : Bit) : Statement (.crc16Bit c b) := of_place 16 rfl (by decide)
theorem crc16Byte (c : RegArg 16) (x : Byte) : Statement (.crc16Byte c x) := of_place 17 rfl (by decide)
theorem crc16Run (d : BytesArg) (init : InitArg) : Statement (.crc16Run d init) := of_place 18 rfl (by decide)
theorem whiten : Statement .whiten := of_place 19 rfl (by decide)
theorem pn9Init : Statement .pn9Init := of_place 20 rfl (by decide)
theorem pn9Step (r : RegArg 9) : Statement (.pn9Step r) := of_place 21 rfl (by decide)
theorem pn9Byte : Statement .pn9Byte := of_place 22 rfl (by decide)
theorem ser : Statement .ser := of_place 23 rfl (by decide)
theorem serByte (x : Byte) (m : Bit) : Statement (.serByte x m) := of_place 24 rfl (by decide)
theorem ax25Stuff : Statement .ax25Stuff := of_place 25 rfl (by decide)
theorem stuffBit (n : RegArg 3) (b : Bit) : Statement (.stuffBit n b) := of_place 26 rfl (by decide)
theorem manch : Statement .manch := of_place 27 rfl (by decide)
theorem manchBit (b : Bit) : Statement (.manchBit b) := of_place 28 rfl (by decide)
theorem nrz : Statement .nrz := of_place 29 rfl (by decide)
theorem nrzBit (b : Bit) : Statement (.nrzBit b) := of_place 30 rfl (by decide)
theorem settle : Statement .settle := of_place 31 rfl (by decide)
theorem tag : Statement .tag := of_place 32 rfl (by decide)
theorem handoff : Statement .handoff := of_place 33 rfl (by decide)
theorem samplePop : Statement .samplePop := of_place 34 rfl (by decide)

end Sys2Proof.Laws.WordForm
end

