-- ==== Sys2Proof/Tests/Slice0.lean ====
section
/-! SUPPORT. Tests: expected values are those of spec/95_test_vectors.md (named S1 to S13, V1), of a rule's own example,
or words written out from spec/30_encoding.md R91 and R98. Last come the witnesses of the statements' hypotheses. -/

namespace Sys2Proof.Tests

open Sys2Proof.Machine Sys2Proof.Spec

/-- A state right after reset with capacities of its own: no bound on preamble and sync word, 9 bytes of PDU. -/
def s0 : State := { State.reset with par := ⟨none, none, some 9, false, false⟩ }

def cq : Callsign := ⟨0x43, 0x51, 0x20, 0x20, 0x20, 0x20⟩
def n0call : Callsign := ⟨0x4E, 0x30, 0x43, 0x41, 0x4C, 0x4C⟩

/-- Configured with control word `f`, SEQ at slot `k` of an encode, the payload 01 02 in PB. -/
def bench (f : Byte) (k : Slot) : State :=
  { s0 with
    cfg := ⟨f, [0xAA, 0xAA], [0x93, 0x0B], cq, 0, n0call, 1, 4⟩, seq := ⟨.encoding, k⟩,
    held := ⟨true, false, false, false, false⟩, pb := some [0x01, 0x02] }

/-- Configured with control word `f`, phase IDLE. -/
def idle (f : Byte) : State := { bench f .e1 with seq := ⟨.idle, .e0⟩, pb := none }

/-- Just reset, with `v` on port `cfg`. -/
def offered (v : CfgValues) : State := { s0 with cfgPort := v }

/-- The state an operation leaves. -/
def got (i : Instr) (s : State) : State :=
  match exec i s with
  | .next t => t
  | .fault _ => s0
  | .refused _ => s0

/-- The state a step leaves. -/
def stepped (s : State) : State :=
  match step s with
  | .next t => t
  | .fault _ => s0
  | .refused _ => s0

/-- The low `w` bits of `n`, most significant first. -/
def bits (w n : Nat) : List Bit := (List.range w).map fun t => n.testBit (w - 1 - t)

/-! ### Well-formed operands: each check refuses an ill-formed term -/

theorem test_wf_refuses_lower_case :
    (Instr.ax25Addr (.imm ⟨0x63, 0x71, 0x20, 0x20, 0x20, 0x20⟩ 0) false).wf = false := by decide
theorem test_wf_refuses_empty_callsign :
    (Instr.ax25Addr (.imm ⟨0x20, 0x20, 0x20, 0x20, 0x20, 0x20⟩ 0) false).wf = false := by decide
theorem test_wf_refuses_embedded_space :
    (Instr.ax25Addr (.imm ⟨0x43, 0x20, 0x51, 0x20, 0x20, 0x20⟩ 0) false).wf = false := by decide
theorem test_wf_refuses_ssid_16 : (Instr.ax25Addr (.imm cq 16) false).wf = false := by decide
theorem test_wf_refuses_ones_5 : (Instr.stuffBit (.imm 5) true).wf = false := by decide
theorem test_wf_accepts : (Instr.ax25Addr (.imm n0call 15) true).wf = true ∧ (Instr.stuffBit (.imm 4) true).wf = true := by
  decide

/-! ### Decoding: one word for every operation, control word (R91, R98), place, operands (log 1) -/

theorem test_decode_host :
    decode [0b00000000, 0] = .ok .reset ∧ decode [0b00101001, 1] = .ok .cfgLoad ∧
    decode [0b00101001, 2, 1, 0x01, 1, 0x02, 0] = .ok (.pduAccept [0x01, 0x02]) ∧
    decode [0b00111111, 3] = .ok .encode ∧ decode [0b00000000, 34] = .ok .samplePop := by decide
theorem test_decode_framer :
    decode [0b00000000, 4] = .ok .frmPre ∧ decode [0b00000000, 5] = .ok .frmSync ∧
    decode [0b00000000, 13] = .ok .frmBody := by decide
theorem test_decode_ax25 :
    decode [0b00010000, 6] = .ok .ax25Encap ∧ decode [0b00010000, 7, 1, 1] = .ok (.ax25Addr .src true) ∧
    decode [0b00010000, 7, 2, 0x43, 0x51, 0x20, 0x20, 0x20, 0x20, 0, 0] = .ok (.ax25Addr (.imm cq 0) false) ∧
    decode [0b00010000, 8, 0] = .ok (.ax25Hdr .own) ∧ decode [0b00010000, 9] = .ok .fcsInit ∧
    decode [0b00010000, 10, 1, 0xFF, 0xFE, 0] = .ok (.fcsBit (.imm 0xFFFE) false) ∧
    decode [0b00010000, 11, 0, 0x86] = .ok (.fcsByte .reg 0x86) ∧
    decode [0b00010000, 12, 0] = .ok (.ax25Fcs .own) ∧ decode [0b00010000, 25] = .ok .ax25Stuff ∧
    decode [0b00010000, 26, 1, 0, 4, 1] = .ok (.stuffBit (.imm 4) true) := by decide
theorem test_decode_crc :
    decode [0b00000001, 14] = .ok .crc16Append ∧ decode [0b00000001, 15] = .ok .crc16Init ∧
    decode [0b00000001, 16, 1, 0x80, 0x01, 1] = .ok (.crc16Bit (.imm 0x8001) true) ∧
    decode [0b00000001, 17, 0, 0x93] = .ok (.crc16Byte .reg 0x93) ∧
    decode [0b00000001, 18, 0, 0] = .ok (.crc16Run .own .dflt) ∧
    decode [0b00000001, 18, 1, 1, 0x41, 0, 1, 0x12, 0x34] = .ok (.crc16Run (.imm [0x41]) (.imm 0x1234)) := by decide
theorem test_decode_whitening :
    decode [0b00000010, 19] = .ok .whiten ∧ decode [0b00000010, 20] = .ok .pn9Init ∧
    decode [0b00000010, 21, 1, 0x01, 0xFE] = .ok (.pn9Step (.imm 0x1FE)) ∧
    decode [0b00000010, 22] = .ok .pn9Byte := by decide
theorem test_decode_line :
    decode [0b00000000, 23] = .ok .ser ∧ decode [0b00000000, 24, 0x93, 1] = .ok (.serByte 0x93 true) ∧
    decode [0b00000100, 27] = .ok .manch ∧ decode [0b00000100, 28, 1] = .ok (.manchBit true) ∧
    decode [0b00000000, 29] = .ok .nrz ∧ decode [0b00000000, 30, 0] = .ok (.nrzBit false) ∧
    decode [0b00000000, 31] = .ok .settle ∧ decode [0b00000000, 32] = .ok .tag ∧
    decode [0b00000000, 33] = .ok .handoff := by decide
theorem test_decode_rejects :
    decode [] = .reject .empty ∧ decode [0b01000000, 0] = .reject .flagsReserved ∧
    decode [0b10000000] = .reject .flagsReserved ∧ decode [0, 35] = .reject .noSuchRow ∧
    decode [0b00000000, 14] = .reject .notInPipeline ∧ decode [0b00000000, 30, 2] = .reject .badOperand ∧
    decode [0b00010000, 26, 1, 0, 5, 1] = .reject .badOperand ∧ decode [0b00000000, 3, 0] = .reject .trailing := by decide
theorem test_decode_bare_words :
    decodeTableWord 8 0x00 = some .reset ∧ decodeTableWord 8 0x10 = some .ax25Encap ∧
    decodeTableWord 8 0x01 = some .crc16Append ∧ decodeTableWord 8 0x02 = some .whiten ∧
    decodeTableWord 8 0x04 = some .manch ∧ decodeTableWord 8 0x40 = none := by decide
/-- S13: the pipelines of the default word and of the full one. -/
theorem test_pipeline_of_words :
    pipelineOf 0x29 = some [.frmPre, .frmSync, .frmBody, .crc16Append, .ser, .nrz, .settle, .tag, .handoff] ∧
    pipelineOf 0x3F = some [.frmPre, .frmSync, .ax25Encap, .frmBody, .crc16Append, .whiten, .ser, .ax25Stuff, .manch,
      .nrz, .settle, .tag, .handoff] ∧ pipelineOf 0x40 = none := by decide
theorem test_ctrl_word : ctrlWord true false false true false true = 0x29 := by decide

/-! ### Construction, errors, status (R31, R227, R242 to R249; S11) -/

def addrCq : AddrGroup := ⟨[0x43, 0x51], 0, [0x4E, 0x30, 0x43, 0x41, 0x4C, 0x4C], 1⟩

theorem test_cfg_load_v1 :
    (got .cfgLoad (offered ⟨0x29, [0xAA, 0xAA], [0x93, 0x0B], none, 4⟩)).seq = ⟨.idle, .e0⟩ ∧
    (got .cfgLoad (offered ⟨0x29, [0xAA, 0xAA], [0x93, 0x0B], none, 4⟩)).cfg.cr0 = 0x29 := by decide
theorem test_cfg_load_pads :
    (got .cfgLoad (offered ⟨0x38, [], [0x7E], some addrCq, 0⟩)).cfg.cr3 = cq := by decide
theorem test_cfg_errors :
    (got .cfgLoad (offered ⟨0x69, [], [], none, 0⟩)).err = 0x9669 ∧
    (got .cfgLoad (offered ⟨0x30, [], [], some addrCq, 0⟩)).err = 0x9400 ∧
    (got .cfgLoad (offered ⟨0x30, [], [0x7E], some { addrCq with src := [0x6E] }, 0⟩)).err = 0x9201 ∧
    (got .cfgLoad (offered ⟨0x30, [], [0x7E], some { addrCq with dssid := 16 }, 0⟩)).err = 0x9300 := by decide
theorem test_status : (idle 0x29).status = ⟨true, false, 0x0000, 0⟩ := by decide
theorem test_push_too_large :
    (got (.pduAccept (List.replicate 10 0)) (idle 0x29)).err = 0x6100 ∧
    (got (.pduAccept (List.replicate 10 0)) (idle 0x29)).pushAns = .error 2 1 := by decide
theorem test_reset_drops_queue :
    (got .reset { idle 0x29 with outq := [⟨.pos, none⟩], err := 0x6309 }).outq = [] ∧
    (got .reset { idle 0x29 with outq := [⟨.pos, none⟩], err := 0x6309 }).err = 0x0000 := by decide
theorem test_pop : (got .samplePop { idle 0x29 with outq := [⟨.pos, none⟩, ⟨.neg, none⟩] }).sampOut = some ⟨.pos, none⟩ := by
  decide

/-! ### Units (S1 to S9) -/

theorem test_frm_pre : (got .frmPre (bench 0x29 .e1)).fb = ⟨some [0xAA, 0xAA], none, none, []⟩ := by decide
theorem test_frm_sync : (got .frmSync (bench 0x29 .e1)).fb.sync = some [0x93, 0x0B] := by decide
theorem test_frm_body : (got .frmBody (bench 0x29 .e2)).fb.body = some [0x01, 0x02] := by decide
theorem test_frm_body_goes_to_e4 : (got .frmBody (bench 0x22 .e2)).seq = ⟨.encoding, .e4⟩ := by decide
theorem test_ax25_addr :
    (got (.ax25Addr .src true) (bench 0x30 .e2)).res = .bytes [0x9C, 0x60, 0x86, 0x82, 0x98, 0x98, 0x63] := by decide
theorem test_ax25_hdr : (got (.ax25Hdr (.imm [])) (bench 0x30 .e2)).res =
    .bytes [0x86, 0xA2, 0x40, 0x40, 0x40, 0x40, 0x60, 0x9C, 0x60, 0x86, 0x82, 0x98, 0x98, 0x63, 0x03, 0xF0] := by decide
theorem test_fcs_init : (got .fcsInit (bench 0x30 .e2)).fcs = 0xFFFF := by decide
theorem test_fcs_bit : (got (.fcsBit (.imm 0xFFFF) false) (bench 0x30 .e2)).fcs = 0xFBF7 := by decide
theorem test_fcs_byte : (got (.fcsByte (.imm 0xFFFF) 0x86) (bench 0x30 .e2)).fcs = 0xEEB9 := by decide
theorem test_ax25_fcs :
    (got (.ax25Fcs (.imm [0x31, 0x32, 0x33, 0x34, 0x35, 0x36, 0x37, 0x38, 0x39])) (bench 0x30 .e2)).res =
      .fcs 0x906E [0x6E, 0x90] := by decide +kernel
theorem test_ax25_encap :
    (got .ax25Encap { bench 0x30 .e2 with pb := some [0xFF, 0xFF] }).encap.map (List.drop 14) =
      some [0x03, 0xF0, 0xFF, 0xFF, 0xCE, 0xB1] := by decide +kernel
theorem test_stuff_bit : (got (.stuffBit (.imm 4) true) (bench 0x30 .e6)).res = .bits [true, false] := by decide
theorem test_ax25_stuff :
    (got .ax25Stuff { bench 0x30 .e6 with bb := ⟨some [], some [], some (bits 11 0b11111111111), some [], none⟩ }).bb.body =
      some (bits 13 0b1111101111101) := by decide +kernel
theorem test_crc16_init : (got .crc16Init (bench 0x29 .e3)).crc = 0xFFFF := by decide
theorem test_crc16_bit : (got (.crc16Bit (.imm 0xFFFF) false) (bench 0x29 .e3)).crc = 0xEFDF := by decide
theorem test_crc16_byte : (got (.crc16Byte (.imm 0xFFFF) 0x01) (bench 0x29 .e3)).crc = 0xF1D1 := by decide
theorem test_crc16_run :
    (got (.crc16Run (.imm [0x31, 0x32, 0x33, 0x34, 0x35, 0x36, 0x37, 0x38, 0x39]) .dflt) (bench 0x29 .e3)).res =
      .word 0x29B1 := by decide +kernel
theorem test_crc16_append :
    (got .crc16Append { bench 0x29 .e3 with fb := ⟨some [], some [0x93, 0x0B], some [0x01, 0x02], []⟩ }).fb.crc =
      [0x3A, 0x01] := by decide +kernel
theorem test_pn9_init : (got .pn9Init (bench 0x22 .e4)).lfsr = 0x1FF := by decide
theorem test_pn9_step : (got (.pn9Step (.imm 0x10F)) (bench 0x22 .e4)).lfsr = 0x187 := by decide
theorem test_pn9_byte :
    (got .pn9Byte { bench 0x22 .e4 with lfsr := 0x1E1, held := ⟨true, false, false, true, false⟩ }).res = .byte 0xE1 ∧
    (got .pn9Byte { bench 0x22 .e4 with lfsr := 0x1E1, held := ⟨true, false, false, true, false⟩ }).lfsr = 0x01D := by
  decide
theorem test_whiten :
    (got .whiten { bench 0x23 .e4 with fb := ⟨some [0xAA], some [0x93, 0x0B], some [0x01, 0x02], [0x3A, 0x01]⟩ }).fb =
      ⟨some [0xAA], some [0x6C, 0xEA], some [0x1C, 0x98], [0xD7, 0x84]⟩ := by decide +kernel
theorem test_ser_byte : (got (.serByte 0x93 false) (bench 0x29 .e5)).res = .bits (bits 8 0b11001001) := by decide
theorem test_ser_order :
    (got .ser { bench 0x39 .e5 with fb := ⟨some [], some [0x93], some [0x86], [0x4D]⟩ }).bb.sync =
      some (bits 8 0b10010011) ∧
    (got .ser { bench 0x39 .e5 with fb := ⟨some [], some [0x93], some [0x86], [0x4D]⟩ }).bb.body =
      some (bits 8 0b01100001) := by decide
theorem test_manch_bit : (got (.manchBit false) (bench 0x24 .e7)).res = .bits [false, true] := by decide
theorem test_manch_exempts_preamble :
    (got .manch { bench 0x04 .e7 with bb := ⟨some (bits 8 0b10101010), some [true], some [false], some [], none⟩ }).bb.line =
      some (bits 12 0b101010101001) := by decide
theorem test_nrz_bit : (got (.nrzBit true) (bench 0x29 .e8)).res = .sample .pos := by decide
theorem test_nrz :
    (got .nrz { bench 0x29 .e8 with bb := { BitBuf.empty with line := some [true, false] } }).sb.s = some [.pos, .neg] := by
  decide
theorem test_settle :
    (got .settle { bench 0x29 .e9 with sb := ⟨some [.pos], none⟩ }).sb.s = some [.pos, .zero, .zero, .zero, .zero] := by
  decide
/-- S9: CR7 = 0xFFFFFFFF with a frame that is not empty. -/
theorem test_settle_overflow :
    (got .settle { bench 0x29 .e9 with
      cfg := { (bench 0x29 .e9).cfg with cr7 := 0xFFFFFFFF }, sb := ⟨some [.pos], none⟩ }).err = 0x6309 := by
  decide +kernel
theorem test_tag :
    (got .tag { bench 0x29 .e10 with sb := ⟨some [.pos, .neg], none⟩, sampleCnt := 68 }).sb.desc =
      some ⟨2, 68, some ⟨true, 2, 68⟩⟩ := by decide
theorem test_handoff :
    (got .handoff { bench 0x29 .e10 with
      sb := ⟨some [.pos, .neg], some ⟨2, 68, some ⟨true, 2, 68⟩⟩⟩, sampleCnt := 68 }).outq =
      [⟨.pos, some ⟨true, 2, 68⟩⟩, ⟨.neg, none⟩] := by decide
/-- R95. -/
theorem test_sample_codes :
    sampleCode .pos = 0x3F800000 ∧ sampleCode .neg = 0xBF800000 ∧ sampleCode .zero = 0x00000000 := by decide

/-! ### The whole pipeline -/

/-- V1: 64 line bits and 4 settling samples, the first sample tagged. -/
theorem test_encode_v1 :
    (got .encode (bench 0x29 .e1)).outq.map (·.sample) =
      (bits 64 0b1010101010101010100100110000101100000001000000100011101000000001).map (fun b => if b then .pos else .neg) ++
        [.zero, .zero, .zero, .zero] ∧
    (got .encode (bench 0x29 .e1)).outq.head?.bind (·.tag) = some ⟨true, 68, 0⟩ := by decide +kernel
/-- S10: AX.25, whitening and CRC with sync word 7E and payload FF FF give 206 samples. -/
theorem test_encode_s10 :
    (got .encode { bench 0x3B .e1 with
      cfg := { (bench 0x3B .e1).cfg with cr2 := [0x7E] }, pb := some [0xFF, 0xFF] }).sampleCnt = 206 := by decide +kernel
theorem test_step_runs_a_word :
    (stepped (({ idle 0x29 with outq := [⟨.pos, none⟩] }).withFetchWord 16 0x2200)).outq = [] := by decide
theorem test_step_leaves_reset : (stepped (offered ⟨0x29, [0xAA], [0x93], none, 4⟩)).seq = ⟨.idle, .e0⟩ := by decide
theorem test_scripts :
    (hostPush [0x01]).length = 14 ∧ hostMake [] [] true false false true false none 0 =
      .drive ⟨0x29, [], [], none, 0⟩ :: hostReset ∧
    hostDrain { idle 0x29 with outq := [⟨.pos, none⟩] } = hostPop 1 ∧ hostSend [0x01] (.error 2 3) 5 = hostPush [0x01] ∧
    (withMoves (idle 0x29) (hostPop 2)).host.length = 2 := by decide
/-- R235: a push that the host has still to make is not answered. -/
theorem test_run_over :
    (idle 0x29).runOver = true ∧ ({ idle 0x29 with outq := [⟨.pos, none⟩] } : State).runOver = false ∧
    ({ idle 0x29 with host := [.wait, .push [0x01]] } : State).runOver = false ∧
    ({ idle 0x29 with pushAns := .pending } : State).runOver = false := by decide
/-- R229: a status read in phase CFGERR. -/
theorem test_status_port :
    (stepped { s0 with seq := ⟨.cfgerr, .e0⟩, err := 0x9400, host := [.status] }).statOut =
      some ⟨false, true, 0x9400, 0⟩ := by decide
/-- R232, R255: in the middle of an encode a push changes nothing and a pop takes the head of OUTQ. -/
theorem test_host_in_an_encode :
    stepped { bench 0x29 .e8 with host := [.push [0x01]] } = bench 0x29 .e8 ∧
    stepped { bench 0x29 .e8 with host := [.pop], outq := [⟨.pos, none⟩] } =
      { bench 0x29 .e8 with sampOut := some ⟨.pos, none⟩ } := by decide
/-- R60: AX25.HDR reads PB, CRC16.RUN reads FB, AX25.FCS the header just assembled and no buffer. -/
theorem test_byte_operands :
    readPayload (bench 0x30 .e2) .own = some [0x01, 0x02] ∧
    readFrame { bench 0x29 .e3 with fb := ⟨some [0xAA], some [0x93], some [0x01], []⟩ } .own = some [0x93, 0x01] ∧
    readHeader (bench 0x30 .e2) .own = none ∧
    readHeader { bench 0x30 .e2 with res := .bytes [0x86] } .own = some [0x86] := by decide

/-! ### Witnesses: states and operands that meet the hypotheses of each statement -/

/-- A stuffed, whitened, Manchester-coded AX.25 configuration with a CRC. -/
def full (k : Slot) : State := { bench 0x3F k with held := ⟨true, true, true, true, true⟩ }

def v1Bits : BitBuf := ⟨some [true], some [false], some [true, true, true, true, true], some [], some [true]⟩
def v1Frame : FrameBuf := ⟨some [0xAA], some [0x93], some [0x01], [0x3A]⟩

theorem witness_ResetLeavesResetValues : s0.host = [] := by decide

theorem no_bound (n : Nat) : ∀ m, (none : Option Nat) = some m → n ≤ m := fun _ h => nomatch h

theorem witness_ConstructionLoadsTheConfiguration :
    (offered ⟨0x30, [], [0x7E], some addrCq, 0⟩).seq.phase = .reset ∧
    cfgValid s0.par ⟨0x30, [], [0x7E], some addrCq, 0⟩ ∧
    cfgValid s0.par ⟨0x20, [], [], none, 0⟩ ∧
    cfgValid { s0.par with maxPre := some 2, maxSync := some 1 } ⟨0x30, [0xAA, 0xAA], [0x7E],
      some ⟨[0x5A, 0x39, 0x41, 0x30, 0x41, 0x41], 15, [0x30], 15⟩, 0xFFFFFFFF⟩ := by
  refine ⟨rfl, ⟨by decide, no_bound _, no_bound _, by decide, fun _ => ⟨_, rfl, ?_⟩⟩,
    ⟨by decide, no_bound _, no_bound _, by decide, fun h => absurd h (by decide)⟩,
    ⟨by decide, fun m h => by cases h; decide, fun m h => by cases h; decide, by decide, fun _ => ⟨_, rfl, ?_⟩⟩⟩ <;>
  (unfold callsignValid; decide)

/-- Each check of R249 is the first to fail somewhere. -/
theorem witness_ConfigurationErrorsInOrder :
    (offered ⟨0x80, [], [], none, 0⟩).seq.phase = .reset ∧
    (checksInOrder s0.par ⟨0x80, [], [], none, 0⟩).find? (·.1) = some (true, 6, 0x80) ∧
    (checksInOrder { s0.par with maxPre := some 0 } ⟨0x20, [0xAA], [], none, 0⟩).find? (·.1) = some (true, 5, 0) ∧
    (checksInOrder { s0.par with maxSync := some 0 } ⟨0x20, [], [0x7E], none, 0⟩).find? (·.1) = some (true, 5, 1) ∧
    (checksInOrder s0.par ⟨0x30, [], [], some addrCq, 0⟩).find? (·.1) = some (true, 4, 0) ∧
    (checksInOrder s0.par ⟨0x30, [], [0x7E], none, 0⟩).find? (·.1) = some (true, 1, 0) :=
  ⟨rfl, by decide, by decide, by decide, by decide, by decide⟩

theorem witness_ConfigurationErrorsInOrder_addresses :
    (checksInOrder s0.par ⟨0x30, [], [0x7E], some { addrCq with dest := [0x40] }, 0⟩).find? (·.1) = some (true, 2, 0) ∧
    (checksInOrder s0.par ⟨0x30, [], [0x7E], some { addrCq with dssid := 16 }, 0⟩).find? (·.1) = some (true, 3, 0) ∧
    (checksInOrder s0.par ⟨0x30, [], [0x7E], some { addrCq with src := List.replicate 7 0x41 }, 0⟩).find? (·.1) =
      some (true, 1, 1) ∧
    (checksInOrder s0.par ⟨0x30, [], [0x7E], some { addrCq with src := [0x5B] }, 0⟩).find? (·.1) = some (true, 2, 1) ∧
    (checksInOrder s0.par ⟨0x30, [], [0x7E], some { addrCq with sssid := 16 }, 0⟩).find? (·.1) = some (true, 3, 1) :=
  ⟨by decide, by decide, by decide, by decide, by decide⟩

theorem witness_DisabledTransactionsChangeNothing :
    (idle 0x29).seq.phase ≠ .reset ∧ s0.seq.phase ≠ .idle ∧ s0.outq = [] ∧
    ({ s0 with seq := ⟨.cfgerr, .e0⟩ } : State).seq.phase = .cfgerr ∧ Instr.samplePop ≠ .reset := by decide

theorem witness_PduAcceptChecksAndTakes :
    (idle 0x29).seq.phase = .idle ∧ (idle 0x29).par.maxPdu = some 9 ∧ 9 < (List.replicate 10 (0 : Byte)).length ∧
    (∀ m, (idle 0x29).par.maxPdu = some m → ([] : List Byte).length ≤ m) ∧
    (∀ m, (idle 0x29).par.maxPdu = some m → (List.replicate 9 (0 : Byte)).length ≤ m) ∧
    (([] : List Byte) = [] → (idle 0x29).par.forbidEmptyPdu = false) ∧
    ({ idle 0x29 with par := ⟨none, none, none, true, false⟩ } : State).par.forbidEmptyPdu = true := by
  refine ⟨rfl, rfl, by decide, fun m h => ?_, fun m h => ?_, fun _ => rfl, rfl⟩ <;> cases h <;> decide

theorem witness_PopDeliversTheHead :
    ({ idle 0x29 with outq := [⟨.pos, none⟩] } : State).outq = ⟨.pos, none⟩ :: [] := by decide

theorem witness_FramerCopiesPreambleAndSync : (bench 0x29 .e1).seq = ⟨.encoding, .e1⟩ := by decide

theorem witness_FrmBodyAppendsTheBody :
    (bench 0x29 .e2).seq = ⟨.encoding, .e2⟩ ∧
    (if (bench 0x29 .e2).ax25 then (bench 0x29 .e2).encap else (bench 0x29 .e2).pb) = some [0x01, 0x02] := by decide

theorem ready (f : Byte) : readyToEncode (bench f .e1) [0x01, 0x02] := ⟨rfl, rfl, fun _ => rfl⟩

theorem witness_FramerContract : readyToEncode (bench 0x30 .e1) [0x01, 0x02] := ready 0x30

theorem witness_AddressOctets :
    (bench 0x30 .e2).seq.phase = .encoding ∧ (bench 0x30 .e2).ax25 = true ∧
    readAddr (bench 0x30 .e2) .dest = some (cq, 0) ∧ readAddr (bench 0x30 .e2) .src = some (n0call, 1) ∧
    readAddr (bench 0x30 .e2) (.imm cq 15) = some (cq, 15) := by decide

theorem witness_HeaderLayout :
    (bench 0x30 .e2).seq.phase = .encoding ∧ (bench 0x30 .e2).ax25 = true ∧ (bench 0x30 .e2).held.addr = true ∧
    readPayload (bench 0x30 .e2) .own = some [0x01, 0x02] ∧ readPayload (bench 0x30 .e2) (.imm []) = some [] := by decide

theorem witness_FcsInitAndBit :
    (full .e2).seq.phase = .encoding ∧ (full .e2).ax25 = true ∧ readFcs (full .e2) .reg = some 0 ∧
    readFcs (full .e2) (.imm 0xFFFF) = some 0xFFFF := by decide

theorem witness_FcsByteIsEightBits :
    (full .e2).seq.phase = .encoding ∧ (full .e2).ax25 = true ∧ readFcs (full .e2) .reg = some 0 := by decide

theorem witness_FcsOfASequence :
    (full .e2).seq.phase = .encoding ∧ (full .e2).ax25 = true ∧ 
    readHeader { full .e2 with res := .bytes [0x86] } .own = some [0x86] ∧ readHeader (full .e2) (.imm []) = some [] := by
  decide

theorem witness_FcsResidue : (full .e2).seq.phase = .encoding ∧ (full .e2).ax25 = true := by decide

theorem witness_EncapsulationFormat :
    (bench 0x30 .e2).seq = ⟨.encoding, .e2⟩ ∧ (bench 0x30 .e2).ax25 = true ∧ (bench 0x30 .e2).held.addr = true ∧
    (bench 0x30 .e2).pb = some [0x01, 0x02] := by decide

theorem witness_StuffBitResult :
    (full .e6).seq.phase = .encoding ∧ (full .e6).ax25 = true ∧ readOnes (full .e6) .reg = some 0 ∧
    readOnes (full .e6) (.imm 4) = some 4 := by decide

theorem witness_StuffReplacesTheBody :
    ({ full .e6 with bb := v1Bits } : State).seq = ⟨.encoding, .e6⟩ ∧ ({ full .e6 with bb := v1Bits } : State).ax25 = true ∧
    v1Bits.pre = some [true] ∧ v1Bits.sync = some [false] ∧ v1Bits.body = some [true, true, true, true, true] ∧
    v1Bits.crc = some [] := by decide

theorem witness_StuffingIsBoundedAndReversible :
    ({ full .e6 with bb := v1Bits } : State).seq = ⟨.encoding, .e6⟩ ∧ ({ full .e6 with bb := v1Bits } : State).ax25 = true ∧
    v1Bits.body = some [true, true, true, true, true] ∧
    (got .ax25Stuff { full .e6 with bb := v1Bits }).bb.body = some [true, true, true, true, true, false] := by decide

theorem witness_StuffingExpansion : flagAx25 (bench 0x30 .e1).cfg.cr0 = true := by decide

theorem witness_CrcInitAndBit :
    (full .e3).seq.phase = .encoding ∧ (full .e3).appendCrc = true ∧ readCrc (full .e3) .reg = some 0 ∧
    readCrc (full .e3) (.imm 0x8000) = some 0x8000 := by decide

theorem witness_CrcByteIsEightBits :
    (full .e3).seq.phase = .encoding ∧ (full .e3).appendCrc = true ∧ readCrc (full .e3) .reg = some 0 := by decide

theorem witness_CrcByteParallelForm : (full .e3).seq.phase = .encoding ∧ (full .e3).appendCrc = true := by decide

theorem witness_CrcOfASequence :
    (full .e3).seq.phase = .encoding ∧ (full .e3).appendCrc = true ∧
    readFrame { full .e3 with fb := v1Frame } .own = some [0x93, 0x01] ∧ readFrame (full .e3) (.imm []) = some [] := by
  decide

theorem witness_CrcAppendsTwoBytes :
    ({ full .e3 with fb := v1Frame } : State).seq = ⟨.encoding, .e3⟩ ∧
    ({ full .e3 with fb := v1Frame } : State).appendCrc = true ∧ v1Frame.sync = some [0x93] ∧
    v1Frame.body = some [0x01] := by decide

theorem witness_CrcResidue : (full .e3).seq.phase = .encoding ∧ (full .e3).appendCrc = true := by decide

theorem witness_CrcIsLinear :
    (full .e3).seq.phase = .encoding ∧ (full .e3).appendCrc = true ∧ [(0x01 : Byte)].length = [(0x80 : Byte)].length := by
  decide

theorem witness_Pn9InitAndStep :
    (full .e4).seq.phase = .encoding ∧ (full .e4).whitening = true ∧ readLfsr (full .e4) .reg = some 0 ∧
    readLfsr (full .e4) (.imm 0x1FF) = some 0x1FF := by decide

theorem witness_Pn9ByteTakesTheLowEightBits :
    (full .e4).seq.phase = .encoding ∧ (full .e4).whitening = true ∧ (full .e4).held.lfsr = true := by decide

theorem witness_WhitenXorsTheKeySequence :
    ({ full .e4 with fb := v1Frame } : State).seq = ⟨.encoding, .e4⟩ ∧
    ({ full .e4 with fb := v1Frame } : State).whitening = true ∧ v1Frame.sync = some [0x93] ∧
    v1Frame.body = some [0x01] := by decide

theorem witness_WhiteningIsAnInvolution :
    ({ full .e4 with fb := v1Frame } : State).seq = ⟨.encoding, .e4⟩ ∧
    ({ full .e4 with fb := v1Frame } : State).whitening = true ∧ ({ full .e4 with fb := v1Frame } : State).fb = v1Frame ∧
    ({ bench 0x22 .e4 with fb := v1Frame } : State).whitening = true := by decide

theorem witness_BitOperationResults : (full .e5).seq.phase = .encoding ∧ (full .e5).manchester = true := by decide

theorem witness_SerialiseTheSpans :
    ({ full .e5 with fb := v1Frame } : State).seq = ⟨.encoding, .e5⟩ ∧ v1Frame.pre = some [0xAA] ∧
    v1Frame.sync = some [0x93] ∧ v1Frame.body = some [0x01] := by decide

theorem witness_ManchesterCodesTheLine :
    ({ full .e7 with bb := v1Bits } : State).seq = ⟨.encoding, .e7⟩ ∧
    ({ full .e7 with bb := v1Bits } : State).manchester = true ∧ (full .e7).manchPreamble = true ∧
    (bench 0x04 .e7).manchPreamble = false ∧ v1Bits.pre = some [true] ∧ v1Bits.crc = some [] := by decide

theorem witness_NrzMapsTheLine :
    ({ full .e8 with bb := v1Bits } : State).seq = ⟨.encoding, .e8⟩ ∧ v1Bits.line = some [true] := by decide

/-- Both sides of the limit 2^32. -/
theorem witness_SettleAppendsZeros :
    ({ full .e9 with sb := ⟨some [.pos], none⟩ } : State).seq = ⟨.encoding, .e9⟩ ∧
    [Sample.pos].length + (0xFFFFFFFE#32).toNat < 2 ^ 32 ∧ 2 ^ 32 ≤ [Sample.pos].length + (0xFFFFFFFF#32).toNat := by decide

theorem witness_TagDescribesTheBurst :
    ({ full .e10 with sb := ⟨some [.pos], none⟩ } : State).seq = ⟨.encoding, .e10⟩ ∧ [Sample.pos].length < 2 ^ 32 ∧
    2 ^ 32 ≤ (List.replicate (2 ^ 32) Sample.zero).length :=
  ⟨by decide, by decide, by rw [List.length_replicate]⟩

theorem witness_HandoffMovesTheBurst :
    ({ full .e10 with sb := ⟨some [.pos], some ⟨1, 0, none⟩⟩ } : State).seq = ⟨.encoding, .e10⟩ ∧
    (⟨1, 0, none⟩ : BurstDesc).len.toNat = [Sample.pos].length ∧ (⟨0, 0, none⟩ : BurstDesc).len.toNat = ([] : List Sample).length := by
  decide

theorem witness_EncodeMatchesTheClosedForm :
    readyToEncode (bench 0x3F .e1) [0x01, 0x02] ∧ fits (bench 0x3F .e1) [0x01, 0x02] ∧
    (bench 0x20 .e1).appendCrc = false ∧ (bench 0x20 .e1).ax25 = false ∧ (bench 0x20 .e1).whitening = false :=
  ⟨ready 0x3F, by unfold fits; decide +kernel, by decide, by decide, by decide⟩

theorem witness_EncodeOverflowIsInternal :
    readyToEncode { bench 0x29 .e1 with cfg := { (bench 0x29 .e1).cfg with cr7 := 0xFFFFFFFF } } [0x01, 0x02] ∧
    ¬ fits { bench 0x29 .e1 with cfg := { (bench 0x29 .e1).cfg with cr7 := 0xFFFFFFFF } } [0x01, 0x02] :=
  ⟨⟨rfl, rfl, fun _ => rfl⟩, by unfold fits; decide +kernel⟩

theorem witness_LengthInvariant : flagAx25 (bench 0x29 .e1).cfg.cr0 = false := by decide

theorem witness_BurstDependsOnThePduAlone :
    readyToEncode (bench 0x3F .e1) [0x01, 0x02] ∧
    readyToEncode { bench 0x3F .e1 with sampleCnt := 68, crc := 0x1234 } [0x01, 0x02] ∧
    (bench 0x3F .e1).cfg = ({ bench 0x3F .e1 with sampleCnt := 68, crc := 0x1234 } : State).cfg ∧
    fits (bench 0x3F .e1) [0x01, 0x02] := ⟨ready 0x3F, ⟨rfl, rfl, fun _ => rfl⟩, rfl, by unfold fits; decide +kernel⟩

theorem witness_SequencerRunsTheDecodedList :
    (idle 0x3F).seq.phase = .idle ∧ reservedClear (idle 0x3F).cfg.cr0 = true ∧
    ((idle 0x3F).ax25 = true → (idle 0x3F).held.addr = true) ∧
    (∀ m, (idle 0x3F).par.maxPdu = some m → [(0x01 : Byte), 0x02].length ≤ m) ∧ fits (idle 0x3F) [0x01, 0x02] :=
  ⟨rfl, by decide, fun _ => rfl, fun m h => by cases h; decide, by unfold fits; decide +kernel⟩

theorem witness_StepwiseRunIsEncode :
    (idle 0x3F).seq.phase = .idle ∧ (idle 0x3F).host = [] ∧ (idle 0x3F).word = none ∧
    (∀ m, (idle 0x3F).par.maxPdu = some m → [(0x01 : Byte), 0x02].length ≤ m) :=
  ⟨rfl, rfl, rfl, fun m h => by cases h; decide⟩

theorem witness_StepRunsTheDecodedOperation :
    ({ idle 0x29 with word := some [0, 34] } : State).word = some [0, 34] ∧ decode [0, 34] = .ok .samplePop ∧
    (bench 0x29 .e8).word = none ∧ (bench 0x29 .e8).host = [] ∧ coreMove (bench 0x29 .e8) = .run .nrz ∧
    (idle 0x29).word = none ∧ (idle 0x29).host = [] ∧ coreMove (idle 0x29) = .idle ∧
    (∀ m : HostMove, ({ idle 0x29 with host := [m] } : State).host = m :: [] ∧
      ({ idle 0x29 with host := [m] } : State).word = none) :=
  ⟨rfl, by decide, rfl, rfl, by decide, rfl, rfl, by decide, fun _ => ⟨rfl, rfl⟩⟩

theorem witness_StatusShowsTheStatusRegisters :
    ({ bench 0x29 .e8 with host := [.status] } : State).word = none ∧
    ({ bench 0x29 .e8 with host := [.status] } : State).host = .status :: [] := by decide

/-- A push in phase IDLE and one in an encode. -/
theorem witness_HostTouchesOnlyThePorts :
    ({ idle 0x29 with host := [.push [0x01]] } : State).host = .push [0x01] :: [] ∧ (idle 0x29).word = none ∧
    HostMove.push [0x01] ≠ .wait ∧ HostMove.push [0x01] ≠ .reset ∧ HostMove.pop.isPush = false ∧
    ({ bench 0x29 .e8 with host := [.push [0x01]] } : State).seq.phase ≠ .idle := by decide

theorem witness_SequencerPicksTheSlotsOperation :
    s0.seq.phase = .reset ∧ (idle 0x29).seq.phase = .idle ∧
    ∀ k, (bench 0x29 k).seq = ⟨.encoding, k⟩ := ⟨rfl, rfl, fun _ => rfl⟩

theorem witness_DecodeOfEncode :
    (Instr.stuffBit (.imm 4) true).wf = true ∧ (Instr.stuffBit (.imm 4) true).row.enables 0x3F = true := by decide

theorem witness_DecodeIsSound :
    decode (0x10 :: [26, 1, 0, 4, 1]) = .ok (.stuffBit (.imm 4) true) ∧ (0x40#8 &&& 0xC0#8) ≠ 0x00#8 := by decide

theorem legal_idle : Legal (idle 0x29) := by
  refine ⟨by decide, by unfold errLegal; decide, fun _ => ⟨by decide, by decide, no_bound _, no_bound _, by decide⟩, ?_, ?_⟩
  · intro j x t h
    cases h
  · intro d h
    cases h

theorem witness_StepKeepsLegality :
    Legal (idle 0x29) ∧ step (idle 0x29) = .next (stepped (idle 0x29)) ∧
    step { idle 0x29 with host := [.push []] } = .next (stepped { idle 0x29 with host := [.push []] }) :=
  ⟨legal_idle, rfl, rfl⟩

theorem legal_word (w : Option (List Byte)) : Legal { idle 0x29 with word := w } := legal_idle

theorem witness_LegalStatesGoOn :
    Legal { idle 0x29 with word := some [0, 34] } ∧
    (∀ l, ({ idle 0x29 with word := some [0, 34] } : State).word = some l → ∃ i, decode l = .ok i) :=
  ⟨legal_word _, fun l h => by cases h; exact ⟨.samplePop, by decide⟩⟩

/-- In phase RESET, and for CFG.LOAD outside it. -/
theorem witness_ConfigurationIsImmutable :
    exec (.pduAccept []) s0 = .next (got (.pduAccept []) s0) ∧ s0.seq.phase = .reset ∧
    exec .cfgLoad (idle 0x29) = .next (got .cfgLoad (idle 0x29)) ∧ (idle 0x29).seq.phase ≠ .reset :=
  ⟨rfl, rfl, rfl, by decide⟩

theorem witness_PhaseTransitions :
    exec (.pduAccept [0x01]) (idle 0x29) = .next (got (.pduAccept [0x01]) (idle 0x29)) ∧
    (idle 0x29).seq.phase = .idle ∧ (got (.pduAccept [0x01]) (idle 0x29)).seq.phase = .encoding ∧
    (got .reset (idle 0x29)).seq.phase = .reset ∧
    (got .cfgLoad (offered ⟨0x29, [], [], none, 0⟩)).seq.phase ≠ .reset ∧
    (bench 0x29 .e8).seq.phase = .encoding ∧ (got .nrz (bench 0x29 .e8)).seq.phase = .idle :=
  ⟨rfl, rfl, by decide, rfl, by decide, rfl, by decide⟩

/-- A pop after an error, a ConfigurationError, an EncodingError raised inside ENCODE. -/
theorem witness_ErrIsWrittenOnlyByRaise :
    exec .samplePop { idle 0x29 with err := 0x6309 } = .next (got .samplePop { idle 0x29 with err := 0x6309 }) ∧
    errEnc ({ idle 0x29 with err := 0x6309 } : State).err = true ∧
    errCfg ({ s0 with seq := ⟨.cfgerr, .e0⟩, err := 0x9400 } : State).err = true ∧
    (got .cfgLoad (offered ⟨0x80, [], [], none, 0⟩)).err = 0x9680 ∧
    (got .encode { bench 0x30 .e1 with held := Held.none }).err = 0x6302 := ⟨rfl, by decide, by decide, by decide, by decide⟩

theorem witness_OnlyHandoffExtendsTheStream :
    exec .encode (bench 0x29 .e1) = .next (got .encode (bench 0x29 .e1)) ∧ Instr.encode ≠ .reset := ⟨rfl, by decide⟩

/-- An encode in which nothing has been written yet. -/
def blank (k : Slot) : State := { bench 0x3F k with pb := none, held := Held.none }

theorem witness_UnwrittenReadsAreInternal :
    (∀ k, (blank k).seq.phase = .encoding) ∧
    (∀ i ∈ [Instr.ax25Encap, .ax25Addr .dest false, .ax25Addr .src true, .ax25Hdr .own, .ax25Hdr (.imm []), .fcsBit .reg false,
      .fcsByte .reg 0, .frmBody], readsUnwritten (blank .e2) i) ∧
    readsUnwritten (blank .e2) (.ax25Fcs .own) ∧
    (∀ i ∈ [Instr.crc16Append, .crc16Bit .reg false, .crc16Byte .reg 0, .crc16Run .own .dflt], readsUnwritten (blank .e3) i) ∧
    (∀ i ∈ [Instr.whiten, .pn9Step .reg, .pn9Byte], readsUnwritten (blank .e4) i) ∧
    readsUnwritten (blank .e5) .ser ∧ readsUnwritten (blank .e6) .ax25Stuff ∧
    readsUnwritten (blank .e6) (.stuffBit .reg true) ∧ readsUnwritten (blank .e7) .manch ∧
    readsUnwritten (blank .e8) .nrz ∧ readsUnwritten (blank .e9) .settle ∧ readsUnwritten (blank .e10) .tag ∧
    readsUnwritten (blank .e10) .handoff ∧
    readsUnwritten { blank .e10 with sb := ⟨some [], some ⟨1, 0, none⟩⟩ } .handoff := by
  refine ⟨fun _ => rfl, ?_, ⟨rfl, rfl, fun l h => nomatch h⟩, ?_, ?_, ?_, ?_, ?_, ?_, ?_, ?_, ?_, ⟨rfl, .inl rfl⟩,
    ⟨rfl, .inr (.inr ⟨_, _, rfl, rfl, by decide⟩)⟩⟩ <;>
  (simp only [List.forall_mem_cons, List.not_mem_nil, false_implies, implies_true, readsUnwritten]; decide)

end Sys2Proof.Tests
end

/-! PROOFS. What each of the 35 operations can do to the state, said once: `exec_effect`. The statements about every
operation are case splits on `Effect`. -/

namespace Sys2Proof.Proofs

open Sys2Proof Sys2Proof.Machine Sys2Proof.Spec

/-! ### Work inside an encode -/

/-- The part of the state that no operation working inside an encode writes: the configuration, the parameters, ERR and
the stream. -/
structure Shared where
  cfg : CfgRegs
  addr : Bool
  par : Params
  err : BitVec 16
  outq : List TaggedSample
  sampleCnt : BitVec 64

def shared (s : State) : Shared := ⟨s.cfg, s.held.addr, s.par, s.err, s.outq, s.sampleCnt⟩

/-- `t` differs from `s` by work inside an encode at most: the shared part is kept, SEQ may go to a slot of the same
encode, and the burst description may be the one TAG writes. -/
structure Within (s t : State) : Prop where
  shared_eq : shared t = shared s
  seq : t.seq = s.seq ∨ (s.seq.phase = .encoding ∧ t.seq.phase = .encoding ∧ t.seq.slot ≠ .e0)
  desc : t.sb.desc = s.sb.desc ∨ ∃ l, t.sb.desc = burstDesc s.sampleCnt l

namespace Within

variable {s t u : State}

theorem cfg (h : Within s t) : t.cfg = s.cfg := congrArg Shared.cfg h.shared_eq
theorem addr (h : Within s t) : t.held.addr = s.held.addr := congrArg Shared.addr h.shared_eq
theorem par (h : Within s t) : t.par = s.par := congrArg Shared.par h.shared_eq
theorem err (h : Within s t) : t.err = s.err := congrArg Shared.err h.shared_eq
theorem outq (h : Within s t) : t.outq = s.outq := congrArg Shared.outq h.shared_eq
theorem sampleCnt (h : Within s t) : t.sampleCnt = s.sampleCnt := congrArg Shared.sampleCnt h.shared_eq

theorem phase (h : Within s t) : t.seq.phase = s.seq.phase := by
  rcases h.seq with hseq | ⟨hs, ht, -⟩
  · rw [hseq]
  · rw [hs, ht]

/-- A write to working registers, buffers and latches only. -/
theorem of_kept (hshared : shared t = shared s) (hseq : t.seq = s.seq) (hdesc : t.sb.desc = s.sb.desc) : Within s t :=
  ⟨hshared, .inl hseq, .inl hdesc⟩

theorem refl (s : State) : Within s s := of_kept rfl rfl rfl

theorem of_eq (h : t = s) : Within s t := h ▸ refl s

theorem trans (h : Within s t) (h' : Within t u) : Within s u where
  shared_eq := h'.shared_eq.trans h.shared_eq
  seq := by
    rcases h'.seq with heq | ⟨ht, hu⟩
    · rw [heq]; exact h.seq
    · exact .inr ⟨h.phase ▸ ht, hu⟩
  desc := by
    rcases h'.desc with heq | ⟨l, hl⟩
    · rw [heq]; exact h.desc
    · exact .inr ⟨l, h.sampleCnt ▸ hl⟩

end Within

theorem elseEffect_within (k : Slot) (s : State) : Within s (elseEffect k s) := by
  obtain ⟨c, l, h⟩ := elseEffect_frame k s
  rw [h]
  exact .of_kept rfl rfl rfl

/-- Only slot E10 is followed by phase IDLE, and HANDOFF ends it, not a completion (R225, R230). -/
theorem nextSeq_encoding (f : Byte) {k : Slot} (hk : k ≠ .e10) :
    (nextSeq f k).phase = .encoding ∧ (nextSeq f k).slot ≠ .e0 := by
  rcases nextSeq_cases f k with h | ⟨j, hj, -, -, h⟩
  · rw [nextSeq_eq] at h
    cases k
    case e10 => exact absurd rfl hk
    all_goals simp at h
  · rw [h]
    exact ⟨rfl, hj⟩

theorem completeSlot_within {k : Slot} {s : State} (hk : k ≠ .e10) (hs : s.seq.phase = .encoding) :
    Within s (completeSlot k s) where
  shared_eq := by simp [shared]
  seq := .inr ⟨hs, nextSeq_encoding s.cfg.cr0 hk⟩
  desc := .inl (by simp)

/-- What an operation inside an encode does, HANDOFF apart: work, or INTERNAL. -/
def WorksOrRaises (s t : State) : Prop := Within s t ∨ (s.seq.phase = .encoding ∧ t = raiseInternal s)

/-- Every state an effect answers with satisfies `P`. -/
def Yields (P : State → Prop) (o : Option State) : Prop := ∀ t, o = some t → P t

theorem Yields.some {P : State → Prop} {t : State} (h : P t) : Yields P (some t) := by
  rintro _ ⟨⟩
  exact h

theorem Yields.bind {α : Type} {P : State → Prop} {o : Option α} {g : α → Option State} (h : ∀ a, Yields P (g a)) :
    Yields P (o >>= g) := by
  intro t ht
  obtain ⟨a, -, ha⟩ := Option.bind_eq_some_iff.mp ht
  exact h a t ha

theorem Yields.ite {P : State → Prop} {c : Prop} [Decidable c] {o o' : Option State} (h : Yields P o)
    (h' : Yields P o') : Yields P (if c then o else o') := by
  split
  · exact h
  · exact h'

theorem subOp_works {on : Bool} {f : State → Option State} {s : State} (hf : Yields (Within s) (f s)) :
    WorksOrRaises s (subOp on f s) := by
  rcases subOp_cases on f s with h | ⟨hs, -, ⟨-, h⟩ | ⟨t, ht, h⟩⟩
  · exact .inl (.of_eq h)
  · exact .inr ⟨hs, h⟩
  · exact .inl (h ▸ hf t ht)

theorem slotOp_works {k : Slot} {on last : Bool} {f : State → Option State} {s : State} (hk : last = true → k ≠ .e10)
    (hf : Yields (Within s) (f s)) : WorksOrRaises s (slotOp k on last f s) := by
  have complete : ∀ t, s.seq = ⟨.encoding, k⟩ → Within s t → Within s (if last then completeSlot k t else t) := by
    intro t hs ht
    split
    · exact ht.trans (completeSlot_within (hk ‹_›) (ht.phase.trans (by rw [hs])))
    · exact ht
  rcases slotOp_cases k on last f s with ⟨-, h⟩ | ⟨hs, ⟨-, -, h⟩ | ⟨t, -, ht, h⟩ | ⟨-, h⟩⟩
  · exact .inl (.of_eq h)
  · exact .inr ⟨by rw [hs], h⟩
  · exact .inl (h ▸ complete t hs (hf t ht))
  · cases last with
    | true => exact .inl (h ▸ complete _ hs (elseEffect_within k s))
    | false => exact .inl (.of_eq h)

/-! ### The operations of the slots -/

theorem doFrmPre_works (s : State) : WorksOrRaises s (doFrmPre s) :=
  slotOp_works (by simp) (.some (.of_kept rfl rfl rfl))

theorem doFrmSync_works (s : State) : WorksOrRaises s (doFrmSync s) :=
  slotOp_works (by simp) (.some (.of_kept rfl rfl rfl))

theorem doAx25Encap_works (s : State) : WorksOrRaises s (doAx25Encap s) :=
  slotOp_works (by simp) (.bind fun _ => .bind fun _ => .some (.of_kept rfl rfl rfl))

theorem doFrmBody_works (s : State) : WorksOrRaises s (doFrmBody s) :=
  slotOp_works (by simp)
    (.ite (.bind fun _ => .some (.of_kept rfl rfl rfl)) (.bind fun _ => .some (.of_kept rfl rfl rfl)))

theorem doCrc16Append_works (s : State) : WorksOrRaises s (doCrc16Append s) :=
  slotOp_works (by simp) (.bind fun _ => .some (.of_kept rfl rfl rfl))

theorem doWhiten_works (s : State) : WorksOrRaises s (doWhiten s) :=
  slotOp_works (by simp) (.bind fun _ => .bind fun _ => .bind fun _ => .bind fun _ => .bind fun _ =>
    .some (.of_kept rfl rfl rfl))

theorem doSer_works (s : State) : WorksOrRaises s (doSer s) :=
  slotOp_works (by simp) (.bind fun _ => .bind fun _ => .bind fun _ => .some (.of_kept rfl rfl rfl))

theorem doAx25Stuff_works (s : State) : WorksOrRaises s (doAx25Stuff s) :=
  slotOp_works (by simp) (.bind fun _ => .some (.of_kept rfl rfl rfl))

theorem doManch_works (s : State) : WorksOrRaises s (doManch s) :=
  slotOp_works (by simp) (.bind fun _ => .bind fun _ => .bind fun _ => .bind fun _ => .some (.of_kept rfl rfl rfl))

theorem doNrz_works (s : State) : WorksOrRaises s (doNrz s) :=
  slotOp_works (by simp) (.bind fun _ => .some (.of_kept rfl rfl rfl))

theorem doSettle_works (s : State) : WorksOrRaises s (doSettle s) :=
  slotOp_works (by simp) (.bind fun _ => .bind fun _ => .some (.of_kept rfl rfl rfl))

/-- TAG is the one operation that writes the burst description. -/
theorem doTag_works (s : State) : WorksOrRaises s (doTag s) := by
  refine slotOp_works (by simp) (Yields.bind fun l t ht => ?_)
  obtain ⟨d, hd, hdt⟩ := Option.bind_eq_some_iff.mp ht
  cases hdt
  exact ⟨rfl, .inl rfl, .inr ⟨l, hd.symm⟩⟩

/-- HANDOFF of the burst `b` that `d` describes (R230). -/
def handedOver (d : BurstDesc) (b : List Sample) (s : State) : State :=
  { discardEncode s with
    outq := s.outq ++ tagged d.tag b
    sampleCnt := s.sampleCnt + d.len.setWidth 64
    seq := ⟨.idle, .e0⟩
    pushAns := .ok }

/-- How an encode ends: INTERNAL, or HANDOFF of as many samples as TAG has described. -/
inductive Ends (s : State) : State → Prop
  | internal (hs : s.seq.phase = .encoding) : Ends s (raiseInternal s)
  | handoff {d : BurstDesc} {b : List Sample} (hs : s.seq.phase = .encoding) (hd : s.sb.desc = some d)
      (hb : b.length = d.len.toNat) : Ends s (handedOver d b s)

theorem Ends.phase {s t : State} (h : Ends s t) : t.seq.phase = .idle := by
  cases h <;> rfl

theorem slotOp_ends {k : Slot} {f : State → Option State} {s : State}
    (hf : s.seq.phase = .encoding → Yields (Ends s) (f s)) :
    slotOp k true false f s = s ∨ Ends s (slotOp k true false f s) := by
  rcases slotOp_cases k true false f s with ⟨-, h⟩ | ⟨hs, ⟨-, -, h⟩ | ⟨t, -, ht, h⟩ | ⟨hon, -⟩⟩
  · exact .inl h
  · exact .inr (h ▸ .internal (by rw [hs]))
  · exact .inr (h ▸ hf (by rw [hs]) t ht)
  · cases hon

/-- HANDOFF away from its slot does nothing; at its slot it ends the encode. -/
theorem doHandoff_cases (s : State) : doHandoff s = s ∨ Ends s (doHandoff s) := by
  refine slotOp_ends fun hs => Yields.bind fun l t ht => ?_
  obtain ⟨d, hd, hdt⟩ := Option.bind_eq_some_iff.mp ht
  obtain ⟨b, hb, hbt⟩ := Option.bind_eq_some_iff.mp hdt
  cases hbt
  exact .handoff hs hd (memRead_length hb)

/-! ### The whole pipeline -/

/-- One operation of the pipeline: nothing outside an encode, and inside it work or the end of the encode. -/
structure IsStage (f : State → State) : Prop where
  elsewhere : ∀ s, s.seq.phase ≠ .encoding → f s = s
  acts : ∀ s, Within s (f s) ∨ Ends s (f s)

theorem slotOp_outside {k : Slot} {on last : Bool} {f : State → Option State} {s : State}
    (hs : s.seq.phase ≠ .encoding) : slotOp k on last f s = s :=
  slotOp_elsewhere fun h => hs (by rw [h])

theorem WorksOrRaises.acts {s t : State} : WorksOrRaises s t → Within s t ∨ Ends s t
  | .inl h => .inl h
  | .inr ⟨hs, h⟩ => .inr (h ▸ .internal hs)

theorem pipeline_isStage : ∀ f ∈ pipeline, IsStage f := by
  have works {f : State → State} (hid : ∀ s, s.seq.phase ≠ .encoding → f s = s) (hw : ∀ s, WorksOrRaises s (f s)) :
      IsStage f := ⟨hid, fun s => (hw s).acts⟩
  have handoff : IsStage doHandoff :=
    ⟨fun _ => slotOp_outside, fun s => (doHandoff_cases s).imp_left .of_eq⟩
  simp only [pipeline, List.forall_mem_cons]
  exact ⟨works (fun _ => slotOp_outside) doFrmPre_works, works (fun _ => slotOp_outside) doFrmSync_works,
    works (fun _ => slotOp_outside) doAx25Encap_works, works (fun _ => slotOp_outside) doFrmBody_works,
    works (fun _ => slotOp_outside) doCrc16Append_works, works (fun _ => slotOp_outside) doWhiten_works,
    works (fun _ => slotOp_outside) doSer_works, works (fun _ => slotOp_outside) doAx25Stuff_works,
    works (fun _ => slotOp_outside) doManch_works, works (fun _ => slotOp_outside) doNrz_works,
    works (fun _ => slotOp_outside) doSettle_works, works (fun _ => slotOp_outside) doTag_works, handoff,
    by simp⟩

/-- Stages after the end of the encode do nothing. -/
theorem foldl_stages_outside {l : List (State → State)} (hl : ∀ f ∈ l, IsStage f) {s : State}
    (hs : s.seq.phase ≠ .encoding) : l.foldl (fun t f => f t) s = s := by
  induction l with
  | nil => rfl
  | cons f l ih =>
    rw [List.forall_mem_cons] at hl
    rw [List.foldl_cons, hl.1.elsewhere s hs]
    exact ih hl.2

/-- Stages one after the other work up to some state `u`, where the encode may end. -/
theorem foldl_stages_cases {l : List (State → State)} (hl : ∀ f ∈ l, IsStage f) (s : State) :
    ∃ u, Within s u ∧ (l.foldl (fun t f => f t) s = u ∨ Ends u (l.foldl (fun t f => f t) s)) := by
  induction l generalizing s with
  | nil => exact ⟨s, .refl s, .inl rfl⟩
  | cons f l ih =>
    rw [List.forall_mem_cons] at hl
    rw [List.foldl_cons]
    rcases hl.1.acts s with hw | he
    · obtain ⟨u, hu, hend⟩ := ih hl.2 (f s)
      exact ⟨u, hw.trans hu, hend⟩
    · rw [foldl_stages_outside hl.2 (by rw [he.phase]; decide)]
      exact ⟨s, .refl s, .inr he⟩

theorem runPipeline_cases (s : State) : ∃ u, Within s u ∧ (runPipeline s = u ∨ Ends u (runPipeline s)) :=
  foldl_stages_cases pipeline_isStage s

/-! ### Every operation -/

/-- The state after RESET (R270). -/
def resetOf (s : State) : State := { State.reset with cfgPort := s.cfgPort, host := s.host, par := s.par }

/-- The state after CFG.LOAD of an accepted configuration (R227). -/
def loaded (s : State) : State :=
  { s with
    cfg := loadCfg (addrChecked s.par s.cfgPort) s.cfgPort s.cfg
    held := { s.held with addr := addrChecked s.par s.cfgPort }
    seq := ⟨.idle, .e0⟩ }

/-- The state after PDU.ACCEPT of `p` (R228). -/
def accepted (p : List Byte) (s : State) : State :=
  { discardEncode s with pb := some p, seq := ⟨.encoding, .e1⟩, pushAns := .pending }

/-- The state after SAMPLE.POP (R231). -/
def popped (s : State) : State := { s with outq := s.outq.tail, sampOut := s.outq.head?.or s.sampOut }

/-- Everything an operation can do. A request that is not taken counts as work that writes nothing. ENCODE may raise or
hand over in a state `u` that its run has reached by work. -/
inductive Effect (s : State) : Instr → State → Prop
  | reset : Effect s .reset (resetOf s)
  | work {i : Instr} {t : State} (hi : i ≠ .samplePop) (ht : Within s t) : Effect s i t
  | encodingError {i : Instr} {u : State} {c : BitVec 4} {n : Byte} (hi : i ≠ .samplePop) (hsu : Within s u)
      (hu : i ≠ .encode → u = s) (hphase : u.configured = true) (hc : 1#4 ≤ c ∧ c ≤ 3#4) :
      Effect s i (raiseEncodingError c n u)
  | handoff {i : Instr} {u : State} {d : BurstDesc} {b : List Sample} (hi : i = .handoff ∨ i = .encode)
      (hsu : Within s u) (hphase : u.seq.phase = .encoding) (hd : u.sb.desc = some d) (hb : b.length = d.len.toNat) :
      Effect s i (handedOver d b u)
  | cfgError {e : BitVec 4 × Byte} (hphase : s.seq.phase = .reset) (he : checkCfg s.par s.cfgPort = some e) :
      Effect s .cfgLoad (raiseConfigurationError e.1 e.2 s)
  | load (hphase : s.seq.phase = .reset) (hok : checkCfg s.par s.cfgPort = none) : Effect s .cfgLoad (loaded s)
  | accept {p : List Byte} (hphase : s.seq.phase = .idle) : Effect s (.pduAccept p) (accepted p s)
  | pop : Effect s .samplePop (popped s)

theorem WorksOrRaises.effect {s t : State} {i : Instr} (h : WorksOrRaises s t) (hi : i ≠ .samplePop) :
    Effect s i t := by
  rcases h with h | ⟨hs, rfl⟩
  · exact .work hi h
  · exact .encodingError hi (.refl s) (fun _ => rfl) (by simp [State.configured, hs]) (by decide)

theorem Ends.effect {s u t : State} {i : Instr} (hsu : Within s u) (h : Ends u t) (hi : i = .handoff ∨ i = .encode)
    (hu : i ≠ .encode → u = s) : Effect s i t := by
  cases h with
  | internal hphase =>
    have hpop : i ≠ .samplePop := by rcases hi with rfl | rfl <;> decide
    exact .encodingError hpop hsu hu (by simp [State.configured, hphase]) (by decide)
  | handoff hphase hd hb => exact .handoff hi hsu hphase hd hb

theorem execCfgLoad_outside {s : State} (h : s.seq.phase ≠ .reset) : execCfgLoad s = .next s := by
  simp [execCfgLoad, h]

theorem execCfgLoad_effect (s : State) : ∃ t, execCfgLoad s = .next t ∧ Effect s .cfgLoad t := by
  by_cases hphase : s.seq.phase = .reset
  · cases hcheck : checkCfg s.par s.cfgPort with
    | some e => exact ⟨_, by simp [execCfgLoad, hphase, hcheck], .cfgError hphase hcheck⟩
    | none => exact ⟨_, by simp [execCfgLoad, hphase, hcheck, loaded], .load hphase hcheck⟩
  · exact ⟨s, execCfgLoad_outside hphase, .work (by simp) (.refl s)⟩

theorem execPduAccept_effect (p : List Byte) (s : State) :
    ∃ t, execPduAccept p s = .next t ∧ Effect s (.pduAccept p) t := by
  refine ⟨_, rfl, ?_⟩
  by_cases hphase : s.seq.phase = .idle
  · have raises (c : BitVec 4) (hc : 1#4 ≤ c ∧ c ≤ 3#4) : Effect s (.pduAccept p) (raiseEncodingError c 0 s) :=
      .encodingError (by simp) (.refl s) (fun _ => rfl) (by simp [State.configured, hphase]) hc
    rw [if_pos hphase]
    split
    · exact raises _ (by decide)
    · split
      · exact raises _ (by decide)
      · exact .accept hphase
  · rw [if_neg hphase]
    exact .work (by simp) (.refl s)

theorem execEncode_effect (s : State) : ∃ t, execEncode s = .next t ∧ Effect s .encode t := by
  refine ⟨_, rfl, ?_⟩
  split
  · obtain ⟨u, hsu, h | hend⟩ := runPipeline_cases s
    · exact .work (by simp) (h ▸ hsu)
    · exact hend.effect hsu (.inr rfl) (by simp)
  · exact .work (by simp) (.refl s)

theorem execHandoff_effect (s : State) : ∃ t, execHandoff s = .next t ∧ Effect s .handoff t := by
  refine ⟨_, rfl, ?_⟩
  rcases doHandoff_cases s with h | hend
  · exact .work (by simp) (.of_eq h)
  · exact hend.effect (.refl s) (.inl rfl) (fun _ => rfl)

theorem execSamplePop_eq (s : State) : execSamplePop s = .next (popped s) := by
  unfold execSamplePop popped
  cases h : s.outq with
  | nil => rw [show ([] : List TaggedSample).tail = s.outq from h.symm]; rfl
  | cons x r => rfl

/-- Every operation goes on, and `Effect` says everything it can do. -/
theorem exec_effect (i : Instr) (s : State) : ∃ t, exec i s = .next t ∧ Effect s i t := by
  have works {i : Instr} {t : State} (hi : i ≠ .samplePop) (hi' : exec i s = .next t) (h : WorksOrRaises s t) :
      ∃ t, exec i s = .next t ∧ Effect s i t := ⟨t, hi', h.effect hi⟩
  cases i with
  | reset => exact ⟨_, rfl, .reset⟩
  | cfgLoad => exact execCfgLoad_effect s
  | pduAccept p => exact execPduAccept_effect p s
  | encode => exact execEncode_effect s
  | handoff => exact execHandoff_effect s
  | samplePop => exact ⟨_, execSamplePop_eq s, .pop⟩
  | frmPre => exact works (by simp) rfl (doFrmPre_works s)
  | frmSync => exact works (by simp) rfl (doFrmSync_works s)
  | ax25Encap => exact works (by simp) rfl (doAx25Encap_works s)
  | frmBody => exact works (by simp) rfl (doFrmBody_works s)
  | crc16Append => exact works (by simp) rfl (doCrc16Append_works s)
  | whiten => exact works (by simp) rfl (doWhiten_works s)
  | ser => exact works (by simp) rfl (doSer_works s)
  | ax25Stuff => exact works (by simp) rfl (doAx25Stuff_works s)
  | manch => exact works (by simp) rfl (doManch_works s)
  | nrz => exact works (by simp) rfl (doNrz_works s)
  | settle => exact works (by simp) rfl (doSettle_works s)
  | tag => exact works (by simp) rfl (doTag_works s)
  | ax25Addr a last => exact works (by simp) rfl (subOp_works (.bind fun _ => .some (.of_kept rfl rfl rfl)))
  | ax25Hdr p => exact works (by simp) rfl (subOp_works (.bind fun _ => .bind fun _ => .some (.of_kept rfl rfl rfl)))
  | fcsInit => exact works (by simp) rfl (subOp_works (.some (.of_kept rfl rfl rfl)))
  | fcsBit f b => exact works (by simp) rfl (subOp_works (.bind fun _ => .some (.of_kept rfl rfl rfl)))
  | fcsByte f x => exact works (by simp) rfl (subOp_works (.bind fun _ => .some (.of_kept rfl rfl rfl)))
  | ax25Fcs h => exact works (by simp) rfl (subOp_works (.bind fun _ => .some (.of_kept rfl rfl rfl)))
  | crc16Init => exact works (by simp) rfl (subOp_works (.some (.of_kept rfl rfl rfl)))
  | crc16Bit c b => exact works (by simp) rfl (subOp_works (.bind fun _ => .some (.of_kept rfl rfl rfl)))
  | crc16Byte c x => exact works (by simp) rfl (subOp_works (.bind fun _ => .some (.of_kept rfl rfl rfl)))
  | crc16Run d init => exact works (by simp) rfl (subOp_works (.bind fun _ => .some (.of_kept rfl rfl rfl)))
  | pn9Init => exact works (by simp) rfl (subOp_works (.some (.of_kept rfl rfl rfl)))
  | pn9Step r => exact works (by simp) rfl (subOp_works (.bind fun _ => .some (.of_kept rfl rfl rfl)))
  | pn9Byte => exact works (by simp) rfl (subOp_works (.bind fun _ => .some (.of_kept rfl rfl rfl)))
  | serByte x m => exact works (by simp) rfl (subOp_works (.some (.of_kept rfl rfl rfl)))
  | stuffBit n b => exact works (by simp) rfl (subOp_works (.bind fun _ => .some (.of_kept rfl rfl rfl)))
  | manchBit b => exact works (by simp) rfl (subOp_works (.some (.of_kept rfl rfl rfl)))
  | nrzBit b => exact works (by simp) rfl (subOp_works (.some (.of_kept rfl rfl rfl)))

theorem effect_of_exec {i : Instr} {s t : State} (h : exec i s = .next t) : Effect s i t := by
  obtain ⟨u, hu, he⟩ := exec_effect i s
  rw [h] at hu
  cases hu
  exact he

end Sys2Proof.Proofs

/-! PROOFS. The statements about every operation: the configuration, ERR and the stream. -/

namespace Sys2Proof.Proofs

open Sys2Proof Sys2Proof.Machine Sys2Proof.Spec

/-! ### The configuration (R29) -/

theorem Effect.par_eq {s t : State} {i : Instr} (h : Effect s i t) : t.par = s.par := by
  cases h with
  | work _ hst => exact hst.par
  | encodingError _ hsu => exact hsu.par
  | handoff _ hsu => exact hsu.par
  | reset | cfgError | load | accept | pop => rfl

theorem Effect.cfg_eq {s t : State} {i : Instr} (h : Effect s i t) (hr : i ≠ .reset) (hl : i ≠ .cfgLoad) :
    t.cfg = s.cfg ∧ t.held.addr = s.held.addr := by
  cases h with
  | work _ hst => exact ⟨hst.cfg, hst.addr⟩
  | encodingError _ hsu => exact ⟨hsu.cfg, hsu.addr⟩
  | handoff _ hsu => exact ⟨hsu.cfg, hsu.addr⟩
  | reset => exact absurd rfl hr
  | cfgError | load => exact absurd rfl hl
  | accept | pop => exact ⟨rfl, rfl⟩

/-- Settles O56: `Effect` for the writes, and CFG.LOAD outside phase RESET is not taken. -/
theorem configurationIsImmutable : Obligations.ConfigurationIsImmutable := by
  intro i s t h
  refine ⟨(effect_of_exec h).par_eq, (effect_of_exec h).cfg_eq, ?_⟩
  rintro rfl hphase
  rw [show exec .cfgLoad s = execCfgLoad s from rfl, execCfgLoad_outside hphase] at h
  exact (Host.Outcome.next.inj h).symm

/-! ### The error record (R31, R247, R248) -/

/-- A ConfigurationError sets `cfg_err`, keeps `enc_err` and shows its cause and info. -/
theorem raiseConfigurationError_shows (c : BitVec 4) (n : Byte) (s : State) :
    errCfg (raiseConfigurationError c n s).err = true ∧ errEnc (raiseConfigurationError c n s).err = errEnc s.err ∧
      errShows (raiseConfigurationError c n s).err 1 c n := by
  obtain ⟨hcfg, henc, hshows⟩ := errRecord_fields s.err clsCfg c n
  refine ⟨?_, ?_, hshows⟩
  · rw [raiseConfigurationError_err, hcfg]; simp
  · rw [raiseConfigurationError_err, henc]; simp [clsCfg, clsEnc]

theorem raiseEncodingError_from (c : BitVec 4) (n : Byte) (s : State) :
    encodingErrorFrom s (raiseEncodingError c n s) c n := by
  obtain ⟨hcfg, henc, hshows⟩ := errRecord_fields s.err clsEnc c n
  refine ⟨?_, ?_, hshows, rfl⟩
  · rw [raiseEncodingError_err, henc]; simp
  · rw [raiseEncodingError_err, hcfg]; simp [clsCfg, clsEnc]

/-- Of all effects only the two raises write ERR. -/
theorem Effect.err_cases {s t : State} {i : Instr} (h : Effect s i t) (hr : i ≠ .reset) :
    t.err = s.err ∨
      (∃ c n, i = .cfgLoad ∧ s.seq.phase = .reset ∧ t = raiseConfigurationError c n s) ∨
      ∃ u c n, Within s u ∧ (i ≠ .encode → u = s) ∧ t = raiseEncodingError c n u := by
  cases h with
  | reset => exact absurd rfl hr
  | work _ hst => exact .inl hst.err
  | handoff _ hsu => exact .inl hsu.err
  | load | accept | pop => exact .inl rfl
  | cfgError hphase => exact .inr (.inl ⟨_, _, rfl, hphase, rfl⟩)
  | encodingError _ hsu hu => exact .inr (.inr ⟨_, _, _, hsu, hu, rfl⟩)

/-- Settles O58: by `Effect.err_cases`, since each raise sets its own sticky bit and keeps the other. -/
theorem errIsWrittenOnlyByRaise : Obligations.ErrIsWrittenOnlyByRaise := by
  intro i s t h hr
  rcases (effect_of_exec h).err_cases hr with herr | ⟨c, n, hi, hphase, rfl⟩ | ⟨u, c, n, hsu, hu, rfl⟩
  · rw [herr]
    exact ⟨id, id, .inl rfl⟩
  · obtain ⟨hcfg, henc, hshows⟩ := raiseConfigurationError_shows c n s
    exact ⟨fun _ => hcfg, fun hs => henc.trans hs, .inr (.inl ⟨hi, hphase, rfl, hcfg, henc, c, n, hshows⟩)⟩
  · obtain ⟨henc, hcfg, -⟩ := raiseEncodingError_from c n u
    exact ⟨fun hs => hcfg.trans (hsu.err ▸ hs), fun _ => henc,
      .inr (.inr ⟨u, c, n, hsu.err, hsu.outq, hsu.sampleCnt, hsu.cfg, hu, raiseEncodingError_from c n u⟩)⟩

/-! ### The stream (R230, R231) -/

theorem tagged_length (t : Option Tag) (b : List Sample) : (tagged t b).length = b.length := by
  cases b <;> simp [tagged]

/-- SAMPLE_CNT advances by the number of samples handed over, modulo 2^64. -/
theorem handedOver_sampleCnt {d : BurstDesc} {b : List Sample} (hb : b.length = d.len.toNat) (s : State) :
    (handedOver d b s).sampleCnt = s.sampleCnt + BitVec.ofNat 64 (tagged d.tag b).length := by
  rw [tagged_length, hb, BitVec.ofNat_toNat]
  rfl

/-- Settles O59: of all effects only a hand-over appends to OUTQ, and only a pop or RESET removes. -/
theorem onlyHandoffExtendsTheStream : Obligations.OnlyHandoffExtendsTheStream := by
  intro i s t h hr
  have kept (hi : i ≠ .samplePop) (hq : t.outq = s.outq) (hc : t.sampleCnt = s.sampleCnt) :
      (i = .samplePop → t.outq = s.outq.tail ∧ t.sampleCnt = s.sampleCnt) ∧
      (i = .handoff ∨ i = .encode →
        ∃ q, t.outq = s.outq ++ q ∧ t.sampleCnt = s.sampleCnt + BitVec.ofNat 64 q.length) ∧
      (i ≠ .samplePop → i ≠ .handoff → i ≠ .encode → t.outq = s.outq ∧ t.sampleCnt = s.sampleCnt) :=
    ⟨fun h => absurd h hi, fun _ => ⟨[], by simp [hq], by simp [hc]⟩, fun _ _ _ => ⟨hq, hc⟩⟩
  cases effect_of_exec h with
  | reset => exact absurd rfl hr
  | work hi hst => exact kept hi hst.outq hst.sampleCnt
  | encodingError hi hsu => exact kept hi hsu.outq hsu.sampleCnt
  | cfgError | load | accept => exact kept (by simp) rfl rfl
  | pop => exact ⟨fun _ => ⟨rfl, rfl⟩, by simp, fun h => absurd rfl h⟩
  | @handoff _ u d b hi hsu _ _ hb =>
    refine ⟨by rintro rfl; simp at hi, fun _ => ⟨tagged d.tag b, ?_, ?_⟩, fun _ hh he => (hi.elim hh he).elim⟩
    · rw [← hsu.outq]; rfl
    · rw [handedOver_sampleCnt hb, hsu.sampleCnt]

end Sys2Proof.Proofs

/-! PROOFS. A read of a register or buffer that holds no value (R46), and progress from a legal state. -/

namespace Sys2Proof.Proofs

open Sys2Proof Sys2Proof.Machine Sys2Proof.Spec

/-! ### Reads of what has not been written (R46) -/

theorem subOp_raise {on : Bool} {f : State → Option State} {s : State} (hs : s.seq.phase = .encoding) (hon : on = true)
    (hf : f s = none) : subOp on f s = raiseInternal s := by
  simp [subOp, State.encoding, hs, hon, hf]

theorem slotOp_raise_at {k : Slot} {on last : Bool} {f : State → Option State} {s : State}
    (hs : s.seq.phase = .encoding) (hk : s.seq.slot = k) (hon : on = true) (hf : f s = none) :
    slotOp k on last f s = raiseInternal s := by
  subst hon hk
  exact slotOp_raise (by rw [← hs]) hf

theorem readReg_reg_none {w : Nat} {v : BitVec w} {held : Bool} {a : RegArg w} (ha : a = .reg) (hheld : held = false) :
    readReg held v a = none := by
  subst ha hheld
  rfl

theorem readAddr_none {s : State} {a : AddrArg} (ha : a = .dest ∨ a = .src) (hheld : s.held.addr = false) :
    readAddr s a = none := by
  rcases ha with rfl | rfl <;> simp [readAddr, hheld]

theorem crcInput_none {s : State} (h : s.fb.sync = none ∨ s.fb.body = none) : crcInput s = none := by
  rcases h with h | h <;> simp [crcInput, h]

theorem headerBytes_none {r : Result} (h : ∀ l, r ≠ .bytes l) : headerBytes r = none := by
  cases r with
  | bytes l => exact absurd rfl (h l)
  | _ => rfl

/-- Every operation that reads what has not been written raises INTERNAL. -/
theorem exec_of_readsUnwritten {i : Instr} {s : State} (hs : s.seq.phase = .encoding) (h : readsUnwritten s i) :
    exec i s = .next (raiseInternal s) := by
  cases i with
  | ax25Encap =>
    obtain ⟨hk, hon, hread⟩ := h
    refine congrArg _ (slotOp_raise_at hs hk hon ?_)
    rcases hread with hpb | haddr
    · simp [hpb]
    · simp [readAddr_none (.inl rfl) haddr]
  | ax25Addr a last =>
    obtain ⟨hon, ha, haddr⟩ := h
    exact congrArg _ (subOp_raise hs hon (by simp [readAddr_none ha haddr]))
  | ax25Hdr p =>
    obtain ⟨hon, hread⟩ := h
    refine congrArg _ (subOp_raise hs hon ?_)
    rcases hread with ⟨rfl, hpb⟩ | haddr
    · simp [readPayload, readBytes, hpb]
    · simp [readAddr_none (.inl rfl) haddr]
  | fcsBit f b =>
    obtain ⟨hon, hf, hheld⟩ := h
    exact congrArg _ (subOp_raise hs hon (by simp [readFcs, readReg_reg_none hf hheld]))
  | fcsByte f x =>
    obtain ⟨hon, hf, hheld⟩ := h
    exact congrArg _ (subOp_raise hs hon (by simp [readFcs, readReg_reg_none hf hheld]))
  | ax25Fcs d =>
    obtain ⟨hon, rfl, hres⟩ := h
    exact congrArg _ (subOp_raise hs hon (by simp [readHeader, readBytes, headerBytes_none hres]))
  | frmBody =>
    obtain ⟨hk, hread⟩ := h
    refine congrArg _ (slotOp_raise_at hs hk rfl ?_)
    split at hread
    · simp [*]
    · simp [*]
  | crc16Append =>
    obtain ⟨hk, hon, hread⟩ := h
    exact congrArg _ (slotOp_raise_at hs hk hon (by simp [crcInput_none hread]))
  | crc16Bit c b =>
    obtain ⟨hon, hc, hheld⟩ := h
    exact congrArg _ (subOp_raise hs hon (by simp [readCrc, readReg_reg_none hc hheld]))
  | crc16Byte c x =>
    obtain ⟨hon, hc, hheld⟩ := h
    exact congrArg _ (subOp_raise hs hon (by simp [readCrc, readReg_reg_none hc hheld]))
  | crc16Run d init =>
    obtain ⟨hon, rfl, hread⟩ := h
    exact congrArg _ (subOp_raise hs hon (by simp [readFrame, readBytes, crcInput_none hread]))
  | whiten =>
    obtain ⟨hk, hon, hread⟩ := h
    refine congrArg _ (slotOp_raise_at hs hk hon ?_)
    rcases hread with h | h <;> simp [h]
  | pn9Step r =>
    obtain ⟨hon, hr, hheld⟩ := h
    exact congrArg _ (subOp_raise hs hon (by simp [readLfsr, readReg_reg_none hr hheld]))
  | pn9Byte =>
    obtain ⟨hon, hheld⟩ := h
    exact congrArg _ (subOp_raise hs hon (by simp [readLfsr, readReg_reg_none rfl hheld]))
  | ser =>
    obtain ⟨hk, hread⟩ := h
    refine congrArg _ (slotOp_raise_at hs hk rfl ?_)
    rcases hread with h | h | h <;> simp [h]
  | ax25Stuff =>
    obtain ⟨hk, hon, hbody⟩ := h
    exact congrArg _ (slotOp_raise_at hs hk hon (by simp [hbody]))
  | stuffBit n b =>
    obtain ⟨hon, hn, hheld⟩ := h
    exact congrArg _ (subOp_raise hs hon (by simp [readOnes, readReg_reg_none hn hheld]))
  | manch =>
    obtain ⟨hk, hon, hread⟩ := h
    refine congrArg _ (slotOp_raise_at hs hk hon ?_)
    rcases hread with h | h | h | h <;> simp [h]
  | nrz =>
    obtain ⟨hk, hline⟩ := h
    exact congrArg _ (slotOp_raise_at hs hk rfl (by simp [hline]))
  | settle =>
    obtain ⟨hk, hsb⟩ := h
    exact congrArg _ (slotOp_raise_at hs hk rfl (by simp [hsb]))
  | tag =>
    obtain ⟨hk, hsb⟩ := h
    exact congrArg _ (slotOp_raise_at hs hk rfl (by simp [hsb]))
  | handoff =>
    obtain ⟨hk, hread⟩ := h
    refine congrArg _ (slotOp_raise_at hs hk rfl ?_)
    rcases hread with h | h | ⟨l, d, hl, hd, hlt⟩
    · simp [h]
    · simp [h]
    · simp [hl, hd, memRead, Nat.not_le.mpr hlt]
  | reset | cfgLoad | pduAccept | encode | frmPre | frmSync | fcsInit | crc16Init | pn9Init | serByte | manchBit
  | nrzBit | samplePop => exact h.elim

/-- Settles O60: the operation answers with `raiseInternal`, which is EncodingError INTERNAL of the slot. -/
theorem unwrittenReadsAreInternal : Obligations.UnwrittenReadsAreInternal := fun _ s hs h =>
  ⟨_, exec_of_readsUnwritten hs h, raiseEncodingError_from causeInternal (BitVec.ofNat 8 (slotNum s.seq.slot)) s⟩

/-! ### Progress (R30, R225, R226) -/

theorem exec_next (i : Instr) (s : State) : ∃ t, exec i s = .next t :=
  (exec_effect i s).imp fun _ h => h.1

/-- The core has no rule only at (ENCODING, E0), which R30 excludes. -/
theorem coreMove_illegal {s : State} (h : coreMove s = .illegal) : seqLegal s = false := by
  unfold coreMove at h
  cases hphase : s.seq.phase <;> simp only [hphase] at h
  case encoding =>
    cases hslot : s.seq.slot <;> simp only [hslot] at h
    case e0 => simp [seqLegal, hphase, hslot]
    case e1 | e2 | e10 => split at h <;> cases h
    all_goals cases h
  all_goals cases h

theorem coreStep_next {s : State} (h : seqLegal s = true) : ∃ t, coreStep s = .next t := by
  unfold coreStep
  split
  · exact exec_next _ s
  · exact ⟨s, rfl⟩
  · rename_i hmove
    rw [coreMove_illegal hmove] at h
    cases h

theorem hostMove_next (m : HostMove) {s : State} (h : seqLegal s = true) : ∃ t, hostMove m s = .next t := by
  cases m with
  | wait => exact coreStep_next h
  | reset => exact exec_next .reset s
  | push p => exact exec_next (.pduAccept p) s
  | pop => exact exec_next .samplePop s
  | drive | status => exact ⟨_, rfl⟩

/-- Settles O55: an operation always goes on, and a legal SEQ leaves the core no other stop. -/
theorem legalStatesGoOn : Obligations.LegalStatesGoOn := by
  rintro s ⟨hseq, -⟩ hword
  cases hw : s.word with
  | some l =>
    obtain ⟨i, hi⟩ := hword l hw
    rw [step_word hw, wordStep, hi]
    exact exec_next i _
  | none =>
    cases hh : s.host with
    | nil =>
      rw [step_nil hw hh]
      exact coreStep_next hseq
    | cons m r =>
      rw [step_host hw hh]
      exact hostMove_next m hseq

end Sys2Proof.Proofs

/-! PROOFS. The invariant: every effect keeps the state legal, and the reset state is legal. -/

namespace Sys2Proof.Proofs

open Sys2Proof Sys2Proof.Machine Sys2Proof.Spec

/-! ### What CFG.LOAD has checked (R242 to R249) -/

theorem stripPad_length_le (l : List Byte) : (stripPad l).length ≤ l.length := by
  simpa only [stripPad, List.length_reverse] using (List.dropWhile_sublist (· == ax25Pad) (l := l.reverse)).length_le

/-- R242: a stored callsign is the stripped one, filled up with pads. -/
theorem storeCallsign_toList {l : List Byte} (h : l.length ≤ 6) : (storeCallsign l).toList = padded l := by
  have hlen := (stripPad_length_le l).trans h
  simp only [storeCallsign, Callsign.toList, padded, ax25Pad]
  generalize stripPad l = p at hlen ⊢
  match p, hlen with
  | [], _ | [_], _ | [_, _], _ | [_, _, _], _ | [_, _, _, _], _ | [_, _, _, _, _], _ | [_, _, _, _, _, _], _ => rfl
  | _ :: _ :: _ :: _ :: _ :: _ :: _ :: _, hlen => simp only [List.length_cons] at hlen; omega

/-- Callsign characters, at least one, and then pads have the shape of a stored callsign (R24). -/
theorem storedShape_padded {l : List Byte} (hne : stripPad l ≠ []) (hchars : ∀ c ∈ stripPad l, isCallChar c = true) :
    storedShape (padded l) = true := by
  rw [storedShape, padded, List.takeWhile_append_of_pos hchars, List.dropWhile_append_of_pos hchars]
  simp [hne]

theorem checkCallsign_none {w : Byte} {l : List Byte} (h : checkCallsign w l = none) :
    (storeCallsign l).legal = true := by
  unfold checkCallsign at h
  split_ifs at h with hlen hne hchars
  rw [Callsign.legal, storeCallsign_toList (Nat.not_lt.mp hlen)]
  exact storedShape_padded hne (List.all_eq_true.mp hchars)

theorem checkSsid_none {w n : Byte} (h : checkSsid w n = none) : ssidLegal n = true := by
  unfold checkSsid at h
  split_ifs at h with hn
  simpa [ssidLegal] using hn

/-- What accepted addresses have passed. -/
theorem checkAddr_none {o : Option AddrGroup} (h : checkAddr o = none) :
    ∃ g, o = some g ∧ (storeCallsign g.dest).legal = true ∧ (storeCallsign g.src).legal = true ∧
      ssidLegal g.dssid = true ∧ ssidLegal g.sssid = true := by
  cases o with
  | none => cases h
  | some g =>
    simp only [checkAddr, Option.or_eq_none_iff] at h
    obtain ⟨hdest, hdssid, hsrc, hsssid⟩ := h
    exact ⟨g, rfl, checkCallsign_none hdest, checkCallsign_none hsrc, checkSsid_none hdssid, checkSsid_none hsssid⟩

theorem exceeds_false {n : Nat} {o : Option Nat} (h : ¬ exceeds n o = true) (m : Nat) (hm : o = some m) : n ≤ m := by
  subst hm
  simpa [exceeds] using h

/-- What an accepted configuration has passed. -/
theorem checkCfg_none {p : Params} {v : CfgValues} (h : checkCfg p v = none) :
    reservedClear v.flags = true ∧ (∀ m, p.maxPre = some m → v.preamble.length ≤ m) ∧
      (∀ m, p.maxSync = some m → v.sync.length ≤ m) ∧ (flagAx25 v.flags = true → v.sync ≠ []) ∧
      (addrChecked p v = true → checkAddr v.addr = none) := by
  unfold checkCfg at h
  split_ifs at h with hflags hpre hsync hempty haddr
  · refine ⟨by simpa [reservedClear] using hflags, exceeds_false hpre, exceeds_false hsync, ?_, fun _ => h⟩
    simpa using hempty
  · refine ⟨by simpa [reservedClear] using hflags, exceeds_false hpre, exceeds_false hsync, ?_,
      fun hc => absurd hc haddr⟩
    simpa using hempty

/-- The causes of a ConfigurationError (R241). -/
def cfgCause (e : BitVec 4 × Byte) : Prop := 1#4 ≤ e.1 ∧ e.1 ≤ 6#4

theorem cfgCause_mk {c : BitVec 4} {n : Byte} (h : 1#4 ≤ c ∧ c ≤ 6#4) : cfgCause (c, n) := h

theorem checkCallsign_cause {w : Byte} {l : List Byte} {e : BitVec 4 × Byte} (h : checkCallsign w l = some e) :
    cfgCause e := by
  unfold checkCallsign at h
  split_ifs at h <;> cases h <;> exact cfgCause_mk (by decide)

theorem checkSsid_cause {w n : Byte} {e : BitVec 4 × Byte} (h : checkSsid w n = some e) : cfgCause e := by
  unfold checkSsid at h
  split_ifs at h
  cases h
  exact cfgCause_mk (by decide)

theorem checkAddr_cause {o : Option AddrGroup} {e : BitVec 4 × Byte} (h : checkAddr o = some e) : cfgCause e := by
  cases o with
  | none => cases h; exact cfgCause_mk (by decide)
  | some g =>
    simp only [checkAddr, Option.or_eq_some_iff] at h
    rcases h with h | ⟨-, h | ⟨-, h | ⟨-, h⟩⟩⟩
    · exact checkCallsign_cause h
    · exact checkSsid_cause h
    · exact checkCallsign_cause h
    · exact checkSsid_cause h

theorem checkCfg_cause {p : Params} {v : CfgValues} {e : BitVec 4 × Byte} (h : checkCfg p v = some e) : cfgCause e := by
  unfold checkCfg at h
  split_ifs at h
  on_goal 5 => exact checkAddr_cause h
  all_goals cases h
  all_goals exact cfgCause_mk (by decide)

/-! ### What each part of legality depends on -/

section
variable {s t : State}

theorem seqLegal_of_eq (hs : seqLegal s = true) (h : t.seq = s.seq) : seqLegal t = true := by
  rwa [seqLegal, h]

/-- ERR stays legal where it is not written and the phase does not go to RESET, to CFGERR or from CFGERR. -/
theorem errLegal_of_eq (hs : errLegal s) (herr : t.err = s.err) (hreset : t.seq.phase = .reset → s.seq.phase = .reset)
    (hcfgerr : t.seq.phase = .cfgerr ↔ s.seq.phase = .cfgerr) : errLegal t := by
  obtain ⟨hzero, hsticky, hclass⟩ := hs
  rw [errLegal, herr, hcfgerr]
  exact ⟨fun h => hzero (hreset h), hsticky, hclass⟩

theorem cfgLegal_of_eq (hs : cfgLegal s) (hcfg : t.cfg = s.cfg) (haddr : t.held.addr = s.held.addr)
    (hpar : t.par = s.par) (hconf : t.configured = true → s.configured = true) : cfgLegal t := by
  intro ht
  rw [State.ax25, hcfg, haddr, hpar]
  exact hs (hconf ht)

theorem tagsLegal_of_eq (hs : tagsLegal s) (houtq : t.outq = s.outq) (hcnt : t.sampleCnt = s.sampleCnt) :
    tagsLegal t := by
  intro j x tag hx htag
  rw [streamOffset, houtq, hcnt]
  exact hs j x tag (houtq ▸ hx) htag

theorem descLegal_of_none (h : t.sb.desc = none) : descLegal t := by
  intro d hd
  rw [h] at hd
  cases hd

theorem descLegal_of_eq (hs : descLegal s) (hdesc : t.sb.desc = s.sb.desc) (hcnt : t.sampleCnt = s.sampleCnt) :
    descLegal t := by
  intro d hd
  rw [hcnt]
  exact hs d (hdesc ▸ hd)

/-- What TAG writes agrees with the samples and SAMPLE_CNT (R220). -/
theorem burstDesc_some {cnt : BitVec 64} {l : List Sample} {d : BurstDesc} (h : burstDesc cnt l = some d) :
    d.off = cnt ∧ ∀ t, d.tag = some t → t.sob = true ∧ t.burstLen = d.len ∧ t.offset = d.off := by
  unfold burstDesc at h
  split_ifs at h <;> cases h
  · exact ⟨rfl, fun t ht => by cases ht⟩
  · exact ⟨rfl, fun t ht => by cases ht; exact ⟨rfl, rfl, rfl⟩⟩

end

/-! ### Every effect keeps the state legal -/

section
variable {s t : State}

theorem Within.legal (h : Within s t) (hs : Legal s) : Legal t := by
  obtain ⟨hseq, herr, hcfg, htags, hdesc⟩ := hs
  refine ⟨?_, errLegal_of_eq herr h.err (h.phase ▸ id) (h.phase ▸ .rfl), ?_,
    tagsLegal_of_eq htags h.outq h.sampleCnt, ?_⟩
  · rcases h.seq with heq | ⟨-, hphase, hslot⟩
    · exact seqLegal_of_eq hseq heq
    · simp [seqLegal, hphase, hslot]
  · exact cfgLegal_of_eq hcfg h.cfg h.addr h.par (by simp [State.configured, h.phase])
  · rcases h.desc with heq | ⟨l, hl⟩
    · exact descLegal_of_eq hdesc heq h.sampleCnt
    · intro d hd
      rw [h.sampleCnt]
      exact burstDesc_some (hl.symm.trans hd)

theorem configured_phase (h : s.configured = true) : s.seq.phase ≠ .cfgerr := by
  intro hphase
  simp [State.configured, hphase] at h

/-- An EncodingError shows its class and cause beside a `cfg_err` that was clear (R248). -/
theorem raiseEncodingError_errLegal {c : BitVec 4} {n : Byte} (hphase : s.configured = true)
    (hc : 1#4 ≤ c ∧ c ≤ 3#4) (hs : errLegal s) : errLegal (raiseEncodingError c n s) := by
  obtain ⟨-, hsticky, -⟩ := hs
  obtain ⟨henc, hcfg, ⟨hclass, hcause, -⟩, -⟩ := raiseEncodingError_from c n s
  have hclear : errCfg (raiseEncodingError c n s).err = false := by
    rw [hcfg, ← Bool.not_eq_true, hsticky]
    exact configured_phase hphase
  unfold errLegal
  rw [hclass, hclear, henc, hcause]
  simp [clsCfg, clsEnc, hc]

theorem raiseEncodingError_legal {c : BitVec 4} {n : Byte} (hphase : s.configured = true) (hc : 1#4 ≤ c ∧ c ≤ 3#4)
    (hs : Legal s) : Legal (raiseEncodingError c n s) := by
  obtain ⟨-, herr, hcfg, htags, -⟩ := hs
  exact ⟨rfl, raiseEncodingError_errLegal hphase hc herr, cfgLegal_of_eq hcfg rfl rfl rfl (fun _ => hphase),
    tagsLegal_of_eq htags rfl rfl, descLegal_of_none rfl⟩

/-- In phase RESET nothing has been raised, so a ConfigurationError leaves `enc_err` clear (R31, R247). -/
theorem raiseConfigurationError_errLegal {e : BitVec 4 × Byte} (hphase : s.seq.phase = .reset) (he : cfgCause e)
    (hs : errLegal s) : errLegal (raiseConfigurationError e.1 e.2 s) := by
  obtain ⟨hzero, -⟩ := hs
  obtain ⟨hcfg, henc, hclass, hcause, -⟩ := raiseConfigurationError_shows e.1 e.2 s
  have hclear : errEnc (raiseConfigurationError e.1 e.2 s).err = false := by
    rw [henc, hzero hphase]
    decide
  unfold errLegal
  rw [hclass, hclear, hcfg, hcause]
  simpa [clsCfg, clsEnc, cfgCause] using he

theorem raiseConfigurationError_legal {e : BitVec 4 × Byte} (hphase : s.seq.phase = .reset) (he : cfgCause e)
    (hs : Legal s) : Legal (raiseConfigurationError e.1 e.2 s) := by
  obtain ⟨-, herr, -, htags, hdesc⟩ := hs
  exact ⟨rfl, raiseConfigurationError_errLegal hphase he herr, fun h => by simp [State.configured] at h,
    tagsLegal_of_eq htags rfl rfl, descLegal_of_eq hdesc rfl rfl⟩

theorem loadCfg_fields (c : Bool) (v : CfgValues) (g : CfgRegs) :
    (loadCfg c v g).cr0 = v.flags ∧ (loadCfg c v g).cr1 = v.preamble ∧ (loadCfg c v g).cr2 = v.sync := by
  unfold loadCfg
  split <;> exact ⟨rfl, rfl, rfl⟩

/-- The configuration that CFG.LOAD stores is legal, since it has been checked (R29, R227). -/
theorem loaded_cfgLegal (hok : checkCfg s.par s.cfgPort = none) : cfgLegal (loaded s) := by
  obtain ⟨hflags, hpre, hsync, hempty, haddr⟩ := checkCfg_none hok
  obtain ⟨h0, h1, h2⟩ := loadCfg_fields (addrChecked s.par s.cfgPort) s.cfgPort s.cfg
  intro _
  simp only [loaded, State.ax25, h0, h1, h2]
  refine ⟨hflags, fun hax => ⟨hempty hax, by simp [addrChecked, hax]⟩, hpre, hsync, fun hc => ?_⟩
  obtain ⟨g, hg, hdest, hsrc, hdssid, hsssid⟩ := checkAddr_none (haddr hc)
  simp only [loadCfg, hc, hg]
  exact ⟨hdest, hsrc, hdssid, hsssid⟩

theorem loaded_legal (hphase : s.seq.phase = .reset) (hok : checkCfg s.par s.cfgPort = none) (hs : Legal s) :
    Legal (loaded s) := by
  obtain ⟨-, herr, -, htags, hdesc⟩ := hs
  exact ⟨rfl, errLegal_of_eq herr rfl (by simp [loaded]) (by simp [loaded, hphase]), loaded_cfgLegal hok,
    tagsLegal_of_eq htags rfl rfl, descLegal_of_eq hdesc rfl rfl⟩

theorem accepted_legal {p : List Byte} (hphase : s.seq.phase = .idle) (hs : Legal s) : Legal (accepted p s) := by
  obtain ⟨-, herr, hcfg, htags, -⟩ := hs
  exact ⟨rfl, errLegal_of_eq herr rfl (by simp [accepted]) (by simp [accepted, hphase]),
    cfgLegal_of_eq hcfg rfl rfl rfl (by simp [State.configured, hphase]), tagsLegal_of_eq htags rfl rfl,
    descLegal_of_none rfl⟩

/-- Only the first sample handed over may carry a tag (R220). -/
theorem tagged_tag {o : Option Tag} {b : List Sample} {j : Nat} {x : TaggedSample} {tag : Tag}
    (hx : (tagged o b)[j]? = some x) (htag : x.tag = some tag) : j = 0 ∧ o = some tag := by
  cases b with
  | nil => cases hx
  | cons y r =>
    cases j with
    | zero => cases hx; exact ⟨rfl, htag⟩
    | succ j =>
      simp only [tagged, List.getElem?_cons_succ, List.getElem?_map, Option.map_eq_some_iff] at hx
      obtain ⟨z, -, rfl⟩ := hx
      cases htag

/-- A hand-over leaves every place of the stream its offset, so the burst starts at the old SAMPLE_CNT (R231). -/
theorem streamOffset_handedOver {d : BurstDesc} {b : List Sample} (hb : b.length = d.len.toNat) (j : Nat) :
    streamOffset (handedOver d b s) j = streamOffset s j := by
  have hq : (handedOver d b s).outq.length = s.outq.length + (tagged d.tag b).length := List.length_append
  rw [streamOffset, streamOffset, handedOver_sampleCnt hb, hq, BitVec.ofNat_add]
  ring

theorem handedOver_tagsLegal {d : BurstDesc} {b : List Sample} (hd : s.sb.desc = some d) (hb : b.length = d.len.toNat)
    (hdesc : descLegal s) (hs : tagsLegal s) : tagsLegal (handedOver d b s) := by
  obtain ⟨hoff, htag⟩ := hdesc d hd
  intro j x tag hx hxtag
  rw [streamOffset_handedOver hb]
  rcases Nat.lt_or_ge j s.outq.length with hj | hj
  · exact hs j x tag ((List.getElem?_append_left hj).symm.trans hx) hxtag
  · obtain ⟨hzero, ho⟩ := tagged_tag ((List.getElem?_append_right hj).symm.trans hx) hxtag
    obtain ⟨hsob, -, hoffset⟩ := htag tag ho
    refine ⟨hsob, ?_⟩
    rw [hoffset, hoff, streamOffset, show j = s.outq.length by omega, sub_add_cancel]

theorem handedOver_legal {d : BurstDesc} {b : List Sample} (hphase : s.seq.phase = .encoding) (hd : s.sb.desc = some d)
    (hb : b.length = d.len.toNat) (hs : Legal s) : Legal (handedOver d b s) := by
  obtain ⟨-, herr, hcfg, htags, hdesc⟩ := hs
  exact ⟨rfl, errLegal_of_eq herr rfl (by simp [handedOver]) (by simp [handedOver, hphase]),
    cfgLegal_of_eq hcfg rfl rfl rfl (by simp [State.configured, hphase]), handedOver_tagsLegal hd hb hdesc htags,
    descLegal_of_none rfl⟩

/-- A pop moves every element one place to the head, at the same stream offset (R231). -/
theorem popped_tagsLegal (hs : tagsLegal s) : tagsLegal (popped s) := by
  cases hq : s.outq with
  | nil => exact tagsLegal_of_eq hs (by simp [popped, hq]) rfl
  | cons y r =>
    intro j x tag hx htag
    have hoffset : streamOffset (popped s) j = streamOffset s (j + 1) := by
      simp only [streamOffset, popped, hq, List.tail_cons, List.length_cons, BitVec.ofNat_add]
      ring
    rw [hoffset]
    exact hs (j + 1) x tag (by simpa [popped, hq] using hx) htag

theorem popped_legal (hs : Legal s) : Legal (popped s) := by
  obtain ⟨hseq, herr, hcfg, htags, hdesc⟩ := hs
  exact ⟨seqLegal_of_eq hseq rfl, errLegal_of_eq herr rfl id .rfl, cfgLegal_of_eq hcfg rfl rfl rfl id,
    popped_tagsLegal htags, descLegal_of_eq hdesc rfl rfl⟩

/-- The state after reset with any host inputs, word and parameters. -/
theorem reset_legal (v : CfgValues) (l : List HostMove) (w : Option (List Byte)) (p : Params) :
    Legal { State.reset with cfgPort := v, host := l, word := w, par := p } := by
  refine ⟨rfl, ?_, fun h => ?_, fun j x tag hx => ?_, descLegal_of_none rfl⟩
  · simp only [errLegal, State.reset]
    decide
  · simp [State.configured, State.reset] at h
  · simp [State.reset] at hx

theorem Effect.legal {i : Instr} (h : Effect s i t) (hs : Legal s) : Legal t := by
  cases h with
  | reset => exact reset_legal s.cfgPort s.host none s.par
  | work _ hst => exact hst.legal hs
  | encodingError _ hsu _ hphase hc => exact raiseEncodingError_legal hphase hc (hsu.legal hs)
  | handoff _ hsu hphase hd hb => exact handedOver_legal hphase hd hb (hsu.legal hs)
  | cfgError hphase he => exact raiseConfigurationError_legal hphase (checkCfg_cause he) hs
  | load hphase hok => exact loaded_legal hphase hok hs
  | accept hphase => exact accepted_legal hphase hs
  | pop => exact popped_legal hs

end

/-- Settles O54. -/
theorem resetIsLegal : Obligations.ResetIsLegal := reset_legal

/-- Settles O53: a step is an operation, which keeps the state legal by `Effect.legal`, or writes the ports alone. -/
theorem stepKeepsLegality : Obligations.StepKeepsLegality := by
  intro s t hs h
  obtain ⟨u, hu, hstep⟩ := step_next_cases h
  have hlegal : Legal u := by
    rcases hu with rfl | rfl | rfl
    · exact hs
    · exact hs
    · exact hs
  rcases hstep with ⟨i, hi⟩ | ⟨v, rfl⟩ | rfl | ⟨rfl, -⟩
  · exact (effect_of_exec hi).legal hlegal
  · exact hlegal
  · exact hlegal
  · exact hlegal

end Sys2Proof.Proofs

/-! PROOFS. The decoder of an operation word: it reads back every encoded operation, and answers nothing else (R97, R98;
log 1). -/

namespace Sys2Proof.Proofs

open Sys2Proof

/-! ### Rows of the operation map -/

/-- Every row's pattern asks for clear reserved bits (R91, R98). -/
theorem opMap_reserved : ∀ r ∈ opMap, r.mask &&& 0xC0#8 = 0xC0#8 ∧ r.pat &&& 0xC0#8 = 0x00#8 := by decide

/-- The operation of every row is enabled only where the reserved bits of the control word are clear (R97, R103). -/
theorem reservedClear_of_enables {r : Row} {f : Byte} (hr : r ∈ opMap) (h : r.enables f = true) :
    reservedClear f = true := by
  obtain ⟨hmask, hpat⟩ := opMap_reserved r hr
  have hf : f &&& r.mask = r.pat := beq_iff_eq.mp h
  refine beq_iff_eq.mpr ?_
  calc f &&& 0xC0#8 = f &&& r.mask &&& 0xC0#8 := by rw [BitVec.and_assoc, hmask]
    _ = 0x00#8 := by rw [hf, hpat]

/-- The row of an operation stands at its place, and enables its own match word. -/
theorem row_of_place (i : Instr) : opMap[i.place]? = some i.row ∧ i.row.enables i.row.pat = true := by
  obtain ⟨-, hrow, hpat, -⟩ := Laws.WordForm.of_place i.place rfl (place_lt i)
  exact ⟨hrow, hpat⟩

/-! ### Operands -/

/-- Two operands are read back one after the other. -/
theorem getTwo_append {α β : Type} {f : List Byte → Option (α × List Byte)} {g : List Byte → Option (β × List Byte)}
    {x y r : List Byte} {a : α} {b : β} (hf : f (x ++ (y ++ r)) = some (a, y ++ r)) (hg : g (y ++ r) = some (b, r)) :
    getTwo f g (x ++ y ++ r) = some ((a, b), r) := by
  simp [getTwo, hf, hg]

theorem getByte_singleton (x : Byte) (r : List Byte) : getByte ([x] ++ r) = some (x, r) := rfl

/-- The operands of every operation are read back from its operand bytes, whatever follows them. -/
theorem decodeOperands_operandBytes (i : Instr) (r : List Byte) :
    decodeOperands i.place (i.operandBytes ++ r) = some (i, r) := by
  cases i with
  | pduAccept p => exact congrArg (Option.map _) (getBytes_putBytes p r)
  | ax25Addr a last => exact congrArg (Option.map _) (getTwo_append (getAddrArg_putAddrArg a _) (getBit_putBit last r))
  | ax25Hdr a | ax25Fcs a => exact congrArg (Option.map _) (getBytesArg_putBytesArg a r)
  | fcsBit a b | crc16Bit a b =>
    exact congrArg (Option.map _) (getTwo_append (getRegArg_putRegArg getWord_putWord_16 a _) (getBit_putBit b r))
  | fcsByte a x | crc16Byte a x =>
    exact congrArg (Option.map _) (getTwo_append (getRegArg_putRegArg getWord_putWord_16 a _) (getByte_singleton x r))
  | crc16Run d init =>
    exact congrArg (Option.map _) (getTwo_append (getBytesArg_putBytesArg d _) (getInitArg_putInitArg init r))
  | pn9Step a => exact congrArg (Option.map _) (getRegArg_putRegArg getWord_putWord_9 a r)
  | serByte x m => exact congrArg (Option.map _) (getTwo_append (getByte_singleton x _) (getBit_putBit m r))
  | stuffBit n b =>
    exact congrArg (Option.map _) (getTwo_append (getRegArg_putRegArg getWord_putWord_3 n _) (getBit_putBit b r))
  | manchBit b | nrzBit b => exact congrArg (Option.map _) (getBit_putBit b r)
  | _ => rfl

theorem place_of_map {α : Type} {n : Nat} {o : Option α} {c : α → Instr × List Byte} {i : Instr} {r : List Byte}
    (h : o.map c = some (i, r)) (hc : ∀ a, (c a).1.place = n) : i.place = n := by
  obtain ⟨a, -, ha⟩ := Option.map_eq_some_iff.mp h
  have hplace := hc a
  rwa [ha] at hplace

/-- The operation read at a place of the table is an operation of the row at that place. -/
theorem place_of_decodeOperands {n : Nat} {l r : List Byte} {i : Instr} (h : decodeOperands n l = some (i, r)) :
    i.place = n := by
  match n, h with
  | 2, h | 7, h | 8, h | 10, h | 11, h | 12, h | 16, h | 17, h | 18, h | 21, h | 24, h | 26, h | 28, h | 30, h =>
    exact place_of_map h fun _ => rfl
  | 0, h | 1, h | 3, h | 4, h | 5, h | 6, h | 9, h | 13, h | 14, h | 15, h | 19, h | 20, h | 22, h | 23, h | 25, h
  | 27, h | 29, h | 31, h | 32, h | 33, h | 34, h => cases h; rfl
  | _ + 35, h => cases h

/-! ### Words -/

/-- A word with a place byte is read by the row at that place (R97). -/
theorem decode_place {f : Byte} {i : Instr} {l : List Byte} (h : i.row.enables f = true) :
    decode (f :: BitVec.ofNat 8 i.place :: l) = decodeAt i.place l := by
  have hplace : (BitVec.ofNat 8 i.place).toNat = i.place := by
    rw [BitVec.toNat_ofNat]
    exact Nat.mod_eq_of_lt ((place_lt i).trans (by decide))
  obtain ⟨hrow, -⟩ := row_of_place i
  have hclear : reservedClear f = true := reservedClear_of_enables (List.mem_of_getElem? hrow) h
  simp [decode, hplace, hrow, hclear, h]

theorem decodeAt_operandBytes {i : Instr} (hwf : i.wf = true) : decodeAt i.place i.operandBytes = .ok i := by
  have h := decodeOperands_operandBytes i []
  rw [List.append_nil] at h
  simp [decodeAt, h, hwf]

theorem decode_encodeUnder {i : Instr} {f : Byte} (hwf : i.wf = true) (h : i.row.enables f = true) :
    decode (encodeUnder f i) = .ok i :=
  (decode_place h).trans (decodeAt_operandBytes hwf)

/-- What is read at a place is well formed and belongs there. -/
theorem decodeAt_ok {n : Nat} {l : List Byte} {i : Instr} (h : decodeAt n l = .ok i) : i.wf = true ∧ i.place = n := by
  unfold decodeAt at h
  split at h
  · cases h
  · rename_i j hj
    split at h
    · cases h
      exact ⟨‹_›, place_of_decodeOperands hj⟩
    · cases h
  · cases h

/-- A control word alone names a row that it enables (log 2). -/
theorem mostSpecific_enables {f : Byte} (hf : reservedClear f = true) :
    ∃ r, opMap[mostSpecific f]? = some r ∧ r.enables f = true := by
  unfold mostSpecific
  split
  · rename_i n hn
    obtain ⟨hlt, hr, -⟩ := List.findIdx?_eq_some_iff_getElem.mp hn
    rw [Bool.and_eq_true] at hr
    exact ⟨_, List.getElem?_eq_getElem hlt, hr.2⟩
  · exact ⟨_, rfl, hf⟩

/-- A word that is read has clear reserved bits, and is read at the place of a row that its control word enables. -/
theorem decode_ok_cases {f : Byte} {l : List Byte} {i : Instr} (h : decode (f :: l) = .ok i) :
    ∃ n r l', opMap[n]? = some r ∧ r.enables f = true ∧ decodeAt n l' = .ok i := by
  cases l with
  | nil =>
    simp only [decode] at h
    split_ifs at h with hf
    obtain ⟨r, hr, hen⟩ := mostSpecific_enables hf
    exact ⟨_, r, [], hr, hen, h⟩
  | cons n l =>
    simp only [decode] at h
    split_ifs at h
    split at h
    · cases h
    · rename_i r hr
      split_ifs at h with hen
      exact ⟨_, r, l, hr, hen, h⟩

theorem decode_reserved {f : Byte} (hf : reservedClear f = false) (l : List Byte) :
    decode (f :: l) = .reject .flagsReserved := by
  cases l <;> simp [decode, hf]

theorem reservedClear_false_iff {f : Byte} : reservedClear f = false ↔ f &&& 0xC0#8 ≠ 0x00#8 := beq_eq_false_iff_ne

/-- Settles O50: both words are read by the operation's own row. -/
theorem decodeOfEncode : Obligations.DecodeOfEncode := fun i _ hwf h =>
  ⟨decode_encodeUnder hwf h, decode_encodeUnder hwf (row_of_place i).2⟩

/-- Settles O51: a word is read only at the place of an enabled row, and the row's operations alone stand there. -/
theorem decodeIsSound : Obligations.DecodeIsSound := by
  refine fun f l => ⟨fun i h => ?_, fun hf => ?_⟩
  · obtain ⟨n, r, l', hr, hen, hat⟩ := decode_ok_cases h
    obtain ⟨hwf, rfl⟩ := decodeAt_ok hat
    rw [(row_of_place i).1] at hr
    cases hr
    exact ⟨hwf, hen⟩
  · have hclear : reservedClear f = false := reservedClear_false_iff.mpr hf
    exact ⟨decode_reserved hclear l, by simp [pipelineOf, hclear]⟩

/-- Settles O52: the two words are those of `encodeUnder`, so they are read back; the two pipelines are evaluated. -/
theorem decodeKnownWords : Obligations.DecodeKnownWords :=
  ⟨by decide, by decide, decode_encodeUnder (i := .crc16Byte (.imm 0xFFFF#16) 0x01#8) rfl (by decide),
    decode_encodeUnder (i := .stuffBit (.imm 4#3) true) rfl (by decide)⟩

end Sys2Proof.Proofs

/-! PROOFS. One encode slot by slot (R224, R225): what the buffers hold once a slot is behind, `Passed`, in the terms of
the closed form. -/

namespace Sys2Proof.Proofs

open Sys2Proof Sys2Proof.Machine Sys2Proof.Spec

/-! ### From slot to slot (R225) -/

/-- The slot before. -/
def prevSlot : Slot → Slot
  | .e0 => .e0 | .e1 => .e0 | .e2 => .e1 | .e3 => .e2 | .e4 => .e3 | .e5 => .e4
  | .e6 => .e5 | .e7 => .e6 | .e8 => .e7 | .e9 => .e8 | .e10 => .e9

theorem slotNum_prevSlot (k : Slot) : slotNum (prevSlot k) = slotNum k - 1 := by cases k <;> rfl

theorem nextSeq_prevSlot_runs {f : Byte} {k : Slot} (h : slotRuns f k = true) :
    nextSeq f (prevSlot k) = ⟨.encoding, k⟩ := by
  cases k <;> simp_all [prevSlot, nextSeq_eq, slotRuns]

theorem nextSeq_prevSlot_skips {f : Byte} {k : Slot} (h : slotRuns f k = false) :
    nextSeq f (prevSlot k) = nextSeq f k := by
  cases k <;> simp_all [prevSlot, nextSeq_eq, slotRuns]

/-- Completing a slot goes to the next one where that runs, and skips nothing. -/
theorem completeSlot_prevSlot_runs {k : Slot} {s : State} (h : slotRuns s.cfg.cr0 k = true) :
    completeSlot (prevSlot k) s = { s with seq := ⟨.encoding, k⟩ } := by
  have hskips (x : Slot) : skips (prevSlot k) ⟨.encoding, k⟩ x = false := by
    simp only [skips, slotNum_prevSlot, Bool.and_eq_false_iff, decide_eq_false_iff_not]
    omega
  simp [completeSlot, nextSeq_prevSlot_runs h, elseIfSkipped, hskips]

/-- Where the next slot does not run, completing a slot does the "else" of that slot and completes it (log 19). -/
theorem completeSlot_prevSlot_skips {k : Slot} {s : State} (h : slotRuns s.cfg.cr0 k = false) :
    completeSlot (prevSlot k) s = completeSlot k (elseEffect k s) := by
  have hseq := nextSeq_prevSlot_skips h
  simp only [completeSlot, elseEffect_cfg, hseq]
  cases k
  case e3 | e4 | e6 | e7 =>
    simp only [nextSeq_eq, prevSlot, elseIfSkipped, elseEffect]
    split_ifs <;> simp_all [skips, slotNum, slotRuns]
  case e0 => rfl
  all_goals cases h

/-- An enabled operation at its slot that completes it. -/
theorem slotOp_completes {k : Slot} {on : Bool} {f : State → Option State} {s u : State} (hs : s.seq = ⟨.encoding, k⟩)
    (hon : on = true) (hf : f s = some u) : slotOp k on true f s = completeSlot k u := by
  subst hon
  exact slotOp_run hs hf

/-! ### Whitening the three spans as one sequence (R180) -/

theorem pn9Bytes_length (n : Nat) (r : BitVec 9) : (pn9Bytes n r).length = n := by
  induction n generalizing r with
  | zero => rfl
  | succ n ih => simp [pn9Bytes, ih]

theorem pn9Bytes_add (m n : Nat) (r : BitVec 9) : pn9Bytes (m + n) r = pn9Bytes m r ++ pn9Bytes n (pn9After m r) := by
  induction m generalizing r with
  | zero => simp [pn9Bytes, pn9After]
  | succ m ih => rw [Nat.add_right_comm, pn9Bytes, ih]; rfl

theorem pn9After_add (m n : Nat) (r : BitVec 9) : pn9After (m + n) r = pn9After n (pn9After m r) := by
  induction m generalizing r with
  | zero => rw [Nat.zero_add]; rfl
  | succ m ih => rw [Nat.add_right_comm]; exact ih (pn9Next r)

theorem whitenFrom_length (r : BitVec 9) (l : List Byte) : (whitenFrom r l).length = l.length := by
  simp [whitenFrom, pn9Bytes_length]

/-- The key runs on from one sequence to the next. -/
theorem whitenFrom_append (r : BitVec 9) (a b : List Byte) :
    whitenFrom r (a ++ b) = whitenFrom r a ++ whitenFrom (pn9After a.length r) b := by
  rw [whitenFrom, List.length_append, pn9Bytes_add, List.zipWith_append (pn9Bytes_length _ _).symm]
  rfl

theorem whitenSpan_eq (r : BitVec 9) (l : List Byte) : whitenSpan r l = some (whitenFrom r l) :=
  memWrite_all l _ (whitenFrom_length r l)

/-- The spans after slot E4 are the parts of `dataOf` of the lengths of SYNC and BODY. -/
theorem spans_of_dataOf {g : CfgRegs} {p a b c : List Byte} (h : dataOf g p = a ++ b ++ c)
    (ha : a.length = g.cr2.length) (hb : b.length = (bodyOf g p).length) :
    syncOut g p = a ∧ bodyOut g p = b ∧ crcOut g p = c := by
  simp [syncOut, bodyOut, crcOut, h, ← ha, ← hb]

/-! ### What a state inside an encode holds -/

/-- The core is in an encode of `p` under the configuration `g`, and TAG has not run. -/
structure InEncode (g : CfgRegs) (p : List Byte) (s : State) : Prop where
  cfg : s.cfg = g
  pb : s.pb = some p
  addr : flagAx25 g.cr0 = true → s.held.addr = true
  desc : s.sb.desc = none

/-- The four spans of the bit buffer, BODY being `body` (R202, R224). -/
def bitSpans (g : CfgRegs) (p : List Byte) (body : List Bit) (b : BitBuf) : Prop :=
  b.pre = some (serSpan (flagMsbFirst g.cr0) g.cr1) ∧ b.sync = some (serSpan (flagMsbFirst g.cr0) (syncOut g p)) ∧
    b.body = some body ∧ b.crc = some (serSpan (flagMsbFirst g.cr0) (crcOut g p))

/-- What the slots up to `k`, run or skipped, leave for the next ones, in the terms of the closed form (R224). Nothing
is left to do after E10. -/
def Holds (g : CfgRegs) (p : List Byte) : Slot → State → Prop
  | .e0, s => s.fb = FrameBuf.empty ∧ s.encap = none
  | .e1, s => s.fb = ⟨some g.cr1, some g.cr2, none, []⟩ ∧ s.encap = none
  | .e2, s => s.fb = ⟨some g.cr1, some g.cr2, some (bodyOf g p), []⟩
  | .e3, s => s.fb = ⟨some g.cr1, some g.cr2, some (bodyOf g p), crcSpanOf g p⟩
  | .e4, s => s.fb = ⟨some g.cr1, some (syncOut g p), some (bodyOut g p), crcOut g p⟩
  | .e5, s => bitSpans g p (bodyBits g p) s.bb
  | .e6, s => bitSpans g p (bodyLine g p) s.bb
  | .e7, s => s.bb.line = some (lineOf g p)
  | .e8, s => s.sb.s = some ((lineOf g p).map nrzBit)
  | .e9, s => s.sb.s = some (burstOf g p)
  | .e10, _ => True

/-- The slots up to `k` are behind. -/
structure Passed (g : CfgRegs) (p : List Byte) (k : Slot) (s : State) : Prop extends InEncode g p s where
  holds : Holds g p k s

section
variable {g : CfgRegs} {p : List Byte} {k : Slot} {s u : State}

theorem Passed.withSeq (h : Passed g p k s) (q : Seq) : Passed g p k { s with seq := q } := by
  refine ⟨⟨h.cfg, h.pb, h.addr, h.desc⟩, ?_⟩
  have hholds := h.holds
  cases k <;> exact hholds

theorem InEncode.afterElse (h : InEncode g p s) (k : Slot) : InEncode g p (elseEffect k s) := by
  obtain ⟨c, l, hframe⟩ := elseEffect_frame k s
  rw [hframe]
  exact ⟨h.cfg, h.pb, h.addr, h.desc⟩

/-- PDU.ACCEPT leaves an encode in which no slot has run (R228). -/
theorem accepted_passed (haddr : s.ax25 = true → s.held.addr = true) : Passed s.cfg p .e0 (accepted p s) :=
  ⟨⟨rfl, rfl, haddr, rfl⟩, rfl, rfl⟩

/-! ### A slot that does not run -/

theorem lineOf_plain (h : flagManchester g.cr0 = false) :
    lineOf g p = serSpan (flagMsbFirst g.cr0) g.cr1 ++ serSpan (flagMsbFirst g.cr0) (syncOut g p) ++ bodyLine g p ++
      serSpan (flagMsbFirst g.cr0) (crcOut g p) := by
  simp [lineOf, h]

/-- The "else" of a skipped slot makes up for it (R224). -/
theorem Passed.skip (h : Passed g p (prevSlot k) s) (hskip : slotRuns g.cr0 k = false) :
    Passed g p k (elseEffect k s) := by
  refine ⟨h.toInEncode.afterElse k, ?_⟩
  have hholds := h.holds
  cases k
  case e0 => exact hholds
  case e3 =>
    have hc : crcSpanOf g p = [] := if_neg (Bool.eq_false_iff.mp hskip)
    simp only [prevSlot, Holds] at hholds
    simp [Holds, elseEffect, hholds, hc]
  case e4 =>
    have hdata : dataOf g p = g.cr2 ++ bodyOf g p ++ crcSpanOf g p := if_neg (Bool.eq_false_iff.mp hskip)
    obtain ⟨hy, hd, hc⟩ := spans_of_dataOf hdata rfl rfl
    rw [Holds, hy, hd, hc]
    exact hholds
  case e6 =>
    have hbody : bodyLine g p = bodyBits g p := if_neg (Bool.eq_false_iff.mp hskip)
    rw [Holds, hbody]
    exact hholds
  case e7 =>
    obtain ⟨hpre, hsync, hbody, hcrc⟩ := hholds
    simp [Holds, elseEffect, plainLine, hpre, hsync, hbody, hcrc, lineOf_plain hskip]
  all_goals cases hskip

/-! ### A slot that runs -/

/-- `t` is a state in which slot `k` has just been completed, with what the slot is to leave. -/
def Carried (g : CfgRegs) (p : List Byte) (k : Slot) (t : State) : Prop :=
  ∃ u, t = completeSlot k u ∧ Passed g p k u

theorem carried_of_effect {on : Bool} {f : State → Option State} (hs : s.seq = ⟨.encoding, k⟩) (hon : on = true)
    (hf : f s = some u) (hu : Passed g p k u) : Carried g p k (slotOp k on true f s) :=
  ⟨u, slotOp_completes hs hon hf, hu⟩

/-- The state after FRM.PRE (R120). -/
def preFramed (s : State) : State := { s with fb := { FrameBuf.empty with pre := some s.cfg.cr1 } }

theorem doFrmPre_eq (hs : s.seq = ⟨.encoding, .e1⟩) : doFrmPre s = preFramed s := slotOp_run hs rfl

theorem doFrmSync_carried (hs : s.seq = ⟨.encoding, .e1⟩) (h : Passed g p .e0 s) :
    Carried g p .e1 (doFrmSync (preFramed s)) := by
  obtain ⟨⟨rfl, hpb, haddr, hdesc⟩, -, hencap⟩ := h
  exact carried_of_effect (s := preFramed s) hs rfl rfl ⟨⟨rfl, hpb, haddr, hdesc⟩, rfl, hencap⟩

/-- The state after AX25.ENCAP of `p` (R137). -/
def encapped (p : List Byte) (s : State) : State :=
  { setFcs (fcsReg (ax25Hdr s.cfg p)) s with encap := some (ax25Encap s.cfg p) }

theorem doAx25Encap_eq (hs : s.seq = ⟨.encoding, .e2⟩) (hon : s.ax25 = true) (h : InEncode s.cfg p s) :
    doAx25Encap s = encapped p s := by
  rw [doAx25Encap, hon]
  exact slotOp_run hs (by simp [h.pb, readAddr, h.addr hon])

/-- FRM.BODY appends the body of the closed form (R122). -/
theorem doFrmBody_carried (hs : s.seq = ⟨.encoding, .e2⟩) (h : InEncode g p s)
    (hfb : s.fb = ⟨some g.cr1, some g.cr2, none, []⟩)
    (hb : (if s.ax25 then s.encap else s.pb) = some (bodyOf g p)) : Carried g p .e2 (doFrmBody s) := by
  refine carried_of_effect (u := { s with fb := ⟨some g.cr1, some g.cr2, some (bodyOf g p), []⟩ }) hs rfl ?_
    ⟨⟨h.cfg, h.pb, h.addr, h.desc⟩, rfl⟩
  split at hb <;> simp [*]

theorem doCrc16Append_carried (hs : s.seq = ⟨.encoding, .e3⟩) (hon : flagAppendCrc g.cr0 = true)
    (h : Passed g p .e2 s) : Carried g p .e3 (doCrc16Append s) := by
  obtain ⟨⟨rfl, hpb, haddr, hdesc⟩, hfb : s.fb = _⟩ := h
  have hc : crcSpanOf s.cfg p = crcBytes (crcRun crcInit (s.cfg.cr2 ++ bodyOf s.cfg p)) := if_pos hon
  exact carried_of_effect
    (u := { setCrc (crcReg crcInit (s.cfg.cr2 ++ bodyOf s.cfg p)) s with
      fb := ⟨some s.cfg.cr1, some s.cfg.cr2, some (bodyOf s.cfg p), crcSpanOf s.cfg p⟩ })
    hs hon (by simp [crcInput, hfb, hc]) ⟨⟨rfl, hpb, haddr, hdesc⟩, rfl⟩

/-- WHITEN runs the key over SYNC, BODY and CRC as over the one sequence of the closed form (R180). -/
theorem spans_whitened (hon : flagWhitening g.cr0 = true) :
    syncOut g p = whitenFrom pn9Seed g.cr2 ∧
      bodyOut g p = whitenFrom (pn9After g.cr2.length pn9Seed) (bodyOf g p) ∧
      crcOut g p = whitenFrom (pn9After (bodyOf g p).length (pn9After g.cr2.length pn9Seed)) (crcSpanOf g p) := by
  refine spans_of_dataOf ?_ (whitenFrom_length _ _) (whitenFrom_length _ _)
  simp only [dataOf, hon, if_true, whitenFrom_append, List.length_append, pn9After_add]

theorem doWhiten_carried (hs : s.seq = ⟨.encoding, .e4⟩) (hon : flagWhitening g.cr0 = true)
    (h : Passed g p .e3 s) : Carried g p .e4 (doWhiten s) := by
  obtain ⟨⟨rfl, hpb, haddr, hdesc⟩, hfb : s.fb = _⟩ := h
  obtain ⟨hy, hd, hc⟩ := spans_whitened (p := p) hon
  refine carried_of_effect hs hon (u := { setLfsr (pn9After (crcSpanOf s.cfg p).length
      (pn9After (bodyOf s.cfg p).length (pn9After s.cfg.cr2.length pn9Seed))) s with
    fb := ⟨some s.cfg.cr1, some (syncOut s.cfg p), some (bodyOut s.cfg p), crcOut s.cfg p⟩ }) ?_
    ⟨⟨rfl, hpb, haddr, hdesc⟩, rfl⟩
  simp [hfb, whitenSpan_eq, hy, hd, hc]

theorem doSer_carried (hs : s.seq = ⟨.encoding, .e5⟩) (h : Passed g p .e4 s) : Carried g p .e5 (doSer s) := by
  obtain ⟨⟨rfl, hpb, haddr, hdesc⟩, hfb : s.fb = _⟩ := h
  refine carried_of_effect hs rfl (u := { s with bb := { s.bb with
    pre := some (serSpan s.msbFirst s.cfg.cr1), sync := some (serSpan s.msbFirst (syncOut s.cfg p)),
    body := some (bodyBits s.cfg p), crc := some (serSpan s.msbFirst (crcOut s.cfg p)) } }) ?_
    ⟨⟨rfl, hpb, haddr, hdesc⟩, rfl, rfl, rfl, rfl⟩
  simp [hfb, bodyBits]

theorem doAx25Stuff_carried (hs : s.seq = ⟨.encoding, .e6⟩) (hon : flagAx25 g.cr0 = true) (h : Passed g p .e5 s) :
    Carried g p .e6 (doAx25Stuff s) := by
  obtain ⟨⟨rfl, hpb, haddr, hdesc⟩, hpre, hsync, hbody, hcrc⟩ := h
  have hstuff : bodyLine s.cfg p = stuff (bodyBits s.cfg p) := if_pos hon
  exact carried_of_effect hs hon (u := { setOnes (stuffFrom 0 (bodyBits s.cfg p)).2 s with
    bb := { s.bb with body := some (bodyLine s.cfg p) } }) (by simp [hbody, hstuff])
    ⟨⟨rfl, hpb, haddr, hdesc⟩, hpre, hsync, rfl, hcrc⟩

theorem lineOf_manchester (hon : flagManchester g.cr0 = true) :
    lineOf g p = (if flagManchPreamble g.cr0 then manchBits (serSpan (flagMsbFirst g.cr0) g.cr1)
        else serSpan (flagMsbFirst g.cr0) g.cr1) ++
      manchBits (serSpan (flagMsbFirst g.cr0) (syncOut g p)) ++ manchBits (bodyLine g p) ++
      manchBits (serSpan (flagMsbFirst g.cr0) (crcOut g p)) := by
  simp [lineOf, hon, manchBits]

theorem doManch_carried (hs : s.seq = ⟨.encoding, .e7⟩) (hon : flagManchester g.cr0 = true) (h : Passed g p .e6 s) :
    Carried g p .e7 (doManch s) := by
  obtain ⟨⟨rfl, hpb, haddr, hdesc⟩, hpre, hsync, hbody, hcrc⟩ := h
  refine carried_of_effect hs hon (u := { s with bb := { s.bb with line := some (lineOf s.cfg p) } }) ?_
    ⟨⟨rfl, hpb, haddr, hdesc⟩, rfl⟩
  have hflag : s.manchPreamble = flagManchPreamble s.cfg.cr0 := rfl
  simp [hpre, hsync, hbody, hcrc, lineOf_manchester hon, hflag]

theorem doNrz_carried (hs : s.seq = ⟨.encoding, .e8⟩) (h : Passed g p .e7 s) : Carried g p .e8 (doNrz s) := by
  obtain ⟨⟨rfl, hpb, haddr, hdesc⟩, hline : s.bb.line = _⟩ := h
  exact carried_of_effect hs rfl (u := { s with sb := { s.sb with s := some ((lineOf s.cfg p).map nrzBit) } })
    (by simp [hline]) ⟨⟨rfl, hpb, haddr, hdesc⟩, rfl⟩

/-- SETTLE fits where the burst of the closed form does (R215). -/
theorem doSettle_carried (hfit : (lineOf g p).length + g.cr7.toNat < lenLimit) (hs : s.seq = ⟨.encoding, .e9⟩)
    (h : Passed g p .e8 s) : Carried g p .e9 (doSettle s) := by
  obtain ⟨⟨rfl, hpb, haddr, hdesc⟩, hsb : s.sb.s = _⟩ := h
  exact carried_of_effect hs rfl (u := { s with sb := { s.sb with s := some (burstOf s.cfg p) } })
    (by simp [hsb, settle, hfit, append, burstOf]) ⟨⟨rfl, hpb, haddr, hdesc⟩, rfl⟩

/-! ### Slot E10: TAG, then HANDOFF -/

theorem burstDesc_of_fits (cnt : BitVec 64) {l : List Sample} (h : l.length < lenLimit) :
    ∃ d, burstDesc cnt l = some d ∧ d.len.toNat = l.length :=
  ⟨_, if_pos h, by rw [BitVec.toNat_ofNat]; exact Nat.mod_eq_of_lt h⟩

/-- The state after TAG has described the burst by `d` (R220). -/
def described (d : BurstDesc) (s : State) : State := { s with sb := { s.sb with desc := some d } }

theorem doTag_eq {l : List Sample} {d : BurstDesc} (hs : s.seq = ⟨.encoding, .e10⟩) (hl : s.sb.s = some l)
    (hd : burstDesc s.sampleCnt l = some d) : doTag s = described d s :=
  slotOp_run hs (by simp [hl, hd])

theorem doHandoff_eq {l : List Sample} {d : BurstDesc} (hs : s.seq = ⟨.encoding, .e10⟩) (hl : s.sb.s = some l)
    (hd : s.sb.desc = some d) (hlen : d.len.toNat = l.length) : doHandoff s = handedOver d l s :=
  slotOp_run hs (by simp [hl, hd, hlen, memRead_all, append])

end

end Sys2Proof.Proofs

/-! PROOFS. The sequencer and the control word decoder agree (R97, R225): the operations the core runs after a push,
`Runs`, are the list of the operation map. -/

namespace Sys2Proof.Proofs

open Sys2Proof Sys2Proof.Machine Sys2Proof.Spec

/-! ### The operations the core runs -/

/-- With the host silent the core runs the operations `l` by itself and gets from `s` to `u`. -/
inductive Runs : State → List Instr → State → Prop
  | nil (s : State) : Runs s [] s
  | cons {s t u : State} {i : Instr} {l : List Instr} (hmove : coreMove s = .run i) (hexec : exec i s = .next t)
      (hrest : Runs t l u) : Runs s (i :: l) u

theorem Runs.single {s t : State} {i : Instr} (hmove : coreMove s = .run i) (hexec : exec i s = .next t) :
    Runs s [i] t :=
  .cons hmove hexec (.nil t)

theorem Runs.append {s t u : State} {l l' : List Instr} (h : Runs s l t) (h' : Runs t l' u) : Runs s (l ++ l') u := by
  induction h with
  | nil => exact h'
  | cons hmove hexec _ ih => exact .cons hmove hexec (ih h')

/-- A run to a state in which the core waits is the whole trace. -/
theorem coreTrace_of_runs {s t : State} {l : List Instr} {n : Nat} (h : Runs s l t) (ht : coreMove t = .idle)
    (hn : l.length ≤ n) : coreTrace n s = l := by
  induction h generalizing n with
  | nil => cases n <;> simp [coreTrace, ht]
  | cons hmove hexec _ ih =>
    cases n with
    | zero => simp at hn
    | succ n => simp [coreTrace, hmove, hexec, ih ht (Nat.le_of_succ_le_succ hn)]

/-- The operations that slot `k` runs under the control word `f`, in order (R224); none where it is skipped (R225). -/
def slotInstrs (f : Byte) : Slot → List Instr
  | .e0 => []
  | .e1 => [.frmPre, .frmSync]
  | .e2 => (if flagAx25 f then [.ax25Encap] else []) ++ [.frmBody]
  | .e3 => if flagAppendCrc f then [.crc16Append] else []
  | .e4 => if flagWhitening f then [.whiten] else []
  | .e5 => [.ser]
  | .e6 => if flagAx25 f then [.ax25Stuff] else []
  | .e7 => if flagManchester f then [.manch] else []
  | .e8 => [.nrz]
  | .e9 => [.settle]
  | .e10 => [.tag, .handoff]

theorem slotInstrs_skipped {f : Byte} {k : Slot} (h : slotRuns f k = false) : slotInstrs f k = [] := by
  cases k
  case e0 => rfl
  case e3 | e4 | e6 | e7 => exact if_neg (Bool.eq_false_iff.mp h)
  all_goals cases h

section
variable {g : CfgRegs} {p : List Byte} {k : Slot} {s u : State}

theorem slot_e1_runs (hs : s.seq = ⟨.encoding, .e1⟩) (h : Passed g p .e0 s) :
    ∃ t, Runs s [.frmPre, .frmSync] t ∧ Carried g p .e1 t := by
  obtain ⟨hfb, -⟩ := h.holds
  have hpre : coreMove s = .run .frmPre := by simp [coreMove, hs, hfb, FrameBuf.empty]
  have hsync : coreMove (preFramed s) = .run .frmSync := by simp [coreMove, preFramed, hs]
  exact ⟨_, .cons hpre (congrArg Host.Outcome.next (doFrmPre_eq hs)) (.single hsync rfl), doFrmSync_carried hs h⟩

theorem slot_e2_runs (hs : s.seq = ⟨.encoding, .e2⟩) (h : Passed g p .e1 s) :
    ∃ t, Runs s (slotInstrs g.cr0 .e2) t ∧ Carried g p .e2 t := by
  obtain ⟨hin, hfb, hencap⟩ := h
  obtain rfl := hin.cfg
  cases hon : s.ax25 with
  | true =>
    have hflag : flagAx25 s.cfg.cr0 = true := hon
    have hmove : coreMove s = .run .ax25Encap := by simp [coreMove, hs, hon, hencap]
    have hbody : coreMove (encapped p s) = .run .frmBody := by simp [coreMove, encapped, hs]
    rw [slotInstrs, if_pos hflag]
    refine ⟨_, .cons hmove (congrArg Host.Outcome.next (doAx25Encap_eq hs hon hin)) (.single hbody rfl),
      doFrmBody_carried (s := encapped p s) hs ⟨rfl, hin.pb, hin.addr, hin.desc⟩ hfb ?_⟩
    rw [bodyOf, if_pos hflag]
    exact if_pos hon
  | false =>
    have hflag : ¬ flagAx25 s.cfg.cr0 = true := Bool.eq_false_iff.mp hon
    have hmove : coreMove s = .run .frmBody := by simp [coreMove, hs, hon]
    rw [slotInstrs, if_neg hflag]
    refine ⟨_, .single hmove rfl, doFrmBody_carried hs hin hfb ?_⟩
    rw [bodyOf, if_neg hflag, hon]
    exact hin.pb

/-- A slot that runs carries the encode over it by its own operations. E10 ends the encode instead. -/
theorem slot_runs (hfit : (lineOf g p).length + g.cr7.toNat < lenLimit) (hk : k ≠ .e10)
    (hrun : slotRuns g.cr0 k = true) (hs : s.seq = ⟨.encoding, k⟩) (h : Passed g p (prevSlot k) s) :
    ∃ t, Runs s (slotInstrs g.cr0 k) t ∧ Carried g p k t := by
  have one {i : Instr} {t : State} (hi : slotInstrs g.cr0 k = [i]) (hmove : coreMove s = .run i)
      (hexec : exec i s = .next t) (ht : Carried g p k t) : ∃ t, Runs s (slotInstrs g.cr0 k) t ∧ Carried g p k t :=
    ⟨t, hi ▸ .single hmove hexec, ht⟩
  cases k with
  | e0 => cases hrun
  | e1 => exact slot_e1_runs hs h
  | e2 => exact slot_e2_runs hs h
  | e3 => exact one (if_pos hrun) (by simp [coreMove, hs]) rfl (doCrc16Append_carried hs hrun h)
  | e4 => exact one (if_pos hrun) (by simp [coreMove, hs]) rfl (doWhiten_carried hs hrun h)
  | e5 => exact one rfl (by simp [coreMove, hs]) rfl (doSer_carried hs h)
  | e6 => exact one (if_pos hrun) (by simp [coreMove, hs]) rfl (doAx25Stuff_carried hs hrun h)
  | e7 => exact one (if_pos hrun) (by simp [coreMove, hs]) rfl (doManch_carried hs hrun h)
  | e8 => exact one rfl (by simp [coreMove, hs]) rfl (doNrz_carried hs h)
  | e9 => exact one rfl (by simp [coreMove, hs]) rfl (doSettle_carried hfit hs h)
  | e10 => exact absurd rfl hk

/-- From one completed slot to the next, which is run or skipped. -/
theorem nextSlot_runs (hfit : (lineOf g p).length + g.cr7.toNat < lenLimit) (hk : k ≠ .e10)
    (h : Carried g p (prevSlot k) s) : ∃ t, Runs s (slotInstrs g.cr0 k) t ∧ Carried g p k t := by
  obtain ⟨u, rfl, hu⟩ := h
  cases hrun : slotRuns g.cr0 k with
  | true =>
    rw [completeSlot_prevSlot_runs (hu.cfg ▸ hrun)]
    exact slot_runs hfit hk hrun rfl (hu.withSeq _)
  | false =>
    rw [completeSlot_prevSlot_skips (hu.cfg ▸ hrun), slotInstrs_skipped hrun]
    exact ⟨_, .nil _, _, rfl, hu.skip hrun⟩

/-- From one completed slot over the slots `ks` that follow it. -/
theorem slots_run (hfit : (lineOf g p).length + g.cr7.toNat < lenLimit) {ks : List Slot} (hks : .e10 ∉ ks)
    (hchain : (k :: ks).IsChain (fun a b => a = prevSlot b)) (h : Carried g p k s) :
    ∃ t, Runs s (ks.flatMap (slotInstrs g.cr0)) t ∧ Carried g p (ks.getLastD k) t := by
  induction ks generalizing k s with
  | nil => exact ⟨s, .nil s, h⟩
  | cons j ks ih =>
    rw [List.isChain_cons_cons] at hchain
    obtain ⟨rfl, hchain⟩ := hchain
    rw [List.mem_cons, not_or] at hks
    obtain ⟨hj, hks⟩ := hks
    obtain ⟨t, hrun, ht⟩ := nextSlot_runs hfit (Ne.symm hj) h
    obtain ⟨v, hrest, hv⟩ := ih hks hchain ht
    exact ⟨v, hrun.append hrest, by rwa [List.getLastD_cons]⟩

/-- Slot E10 hands the burst over and ends the encode (R230). -/
theorem slot_e10_runs (hlen : (burstOf g p).length < lenLimit) (hs : s.seq = ⟨.encoding, .e10⟩)
    (h : Passed g p .e9 s) : ∃ t, Runs s [.tag, .handoff] t ∧ t.seq = ⟨.idle, .e0⟩ := by
  obtain ⟨d, hd, hdlen⟩ := burstDesc_of_fits s.sampleCnt hlen
  have htag : coreMove s = .run .tag := by simp [coreMove, hs, h.desc]
  have hhandoff : coreMove (described d s) = .run .handoff := by simp [coreMove, described, hs]
  exact ⟨_, .cons htag (congrArg Host.Outcome.next (doTag_eq hs h.holds hd))
    (.single hhandoff (congrArg Host.Outcome.next (doHandoff_eq hs h.holds rfl hdlen))), rfl⟩

theorem burstOf_length (g : CfgRegs) (p : List Byte) :
    (burstOf g p).length = (lineOf g p).length + g.cr7.toNat := by
  simp [burstOf]

/-- After an accepted push the core runs the slots in order, and then waits (R224, R225). -/
theorem accepted_runs (haddr : s.ax25 = true → s.held.addr = true) (hfit : fits s p) :
    ∃ t, Runs (accepted p s) (allSlots.flatMap (slotInstrs s.cfg.cr0)) t ∧ t.seq = ⟨.idle, .e0⟩ := by
  have hstart : accepted p s = completeSlot .e0 (accepted p s) :=
    (completeSlot_prevSlot_runs (k := .e1) (s := accepted p s) rfl).symm
  obtain ⟨t, hrun, u, rfl, hu⟩ :=
    slots_run (ks := [.e1, .e2, .e3, .e4, .e5, .e6, .e7, .e8, .e9]) hfit (by decide) (by decide)
      ⟨_, hstart, accepted_passed haddr⟩
  have hat : completeSlot .e9 u = { u with seq := ⟨.encoding, .e10⟩ } := completeSlot_prevSlot_runs (k := .e10) rfl
  obtain ⟨v, hend, hv⟩ := slot_e10_runs (by rwa [burstOf_length]) rfl (hu.withSeq ⟨.encoding, .e10⟩)
  refine ⟨v, ?_, hv⟩
  rw [show allSlots = [.e1, .e2, .e3, .e4, .e5, .e6, .e7, .e8, .e9] ++ [.e10] from rfl, List.flatMap_append]
  exact hrun.append (hat ▸ hend)

end

/-! ### The list the decoder computes (R97) -/

/-- R91: under clear reserved bits a row of one flag is enabled exactly where the flag is set. -/
theorem enables_eq_flag : ∀ f : Byte, reservedClear f = true →
    (f &&& 0xD0 == 0x10) = flagAx25 f ∧ (f &&& 0xC1 == 0x01) = flagAppendCrc f ∧
      (f &&& 0xC2 == 0x02) = flagWhitening f ∧ (f &&& 0xC4 == 0x04) = flagManchester f := by
  decide +kernel

theorem filterMap_filter_eq_flatMap {α β : Type} (q : α → Bool) (o : α → Option β) (l : List α) :
    (l.filter q).filterMap o = l.flatMap fun a => if q a then (o a).toList else [] := by
  induction l with
  | nil => rfl
  | cons a l ih =>
    rw [List.flatMap_cons, ← ih, List.filter_cons]
    split <;> cases h : o a <;> simp [h]

/-- The operation map lists the operations of the slots, in order. -/
theorem pipelineOf_eq_slots {f : Byte} (hf : reservedClear f = true) :
    pipelineOf f = some (allSlots.flatMap (slotInstrs f)) := by
  obtain ⟨hax, hcrc, hwhite, hmanch⟩ := enables_eq_flag f hf
  have hall : (f &&& 0xC0 == 0x00) = true := hf
  rw [pipelineOf, if_pos hf, filterMap_filter_eq_flatMap]
  simp only [opMap, List.cons_append, List.nil_append, List.flatMap_cons, List.flatMap_nil, Row.enables,
    hall, hax, hcrc, hwhite, hmanch]
  simp [allSlots, slotInstrs]

/-- The operation map has thirteen rows with a slot of their own. -/
theorem pipelineOf_length {f : Byte} {l : List Instr} (h : pipelineOf f = some l) : l.length ≤ 13 := by
  unfold pipelineOf at h
  split_ifs at h
  cases h
  exact (List.filter_sublist.filterMap _).length_le

theorem exceeds_eq_false {n : Nat} {o : Option Nat} (h : ∀ m, o = some m → n ≤ m) : exceeds n o = false := by
  cases o with
  | none => rfl
  | some m => simpa [exceeds] using h m rfl

/-- A PDU within the bounds, pushed in phase IDLE, is accepted (R228). -/
theorem execPduAccept_accepted {s : State} {p : List Byte} (hphase : s.seq.phase = .idle)
    (hmax : ∀ m, s.par.maxPdu = some m → p.length ≤ m) (hempty : p = [] → s.par.forbidEmptyPdu = false) :
    exec (.pduAccept p) s = .next (accepted p s) := by
  have hallowed : ¬ (p.length = 0 ∧ s.par.forbidEmptyPdu = true) := fun ⟨hlen, hforbid⟩ => by
    simp [hempty (List.length_eq_zero_iff.mp hlen)] at hforbid
  show execPduAccept p s = _
  rw [execPduAccept, if_pos hphase, exceeds_eq_false hmax, if_neg Bool.false_ne_true, if_neg hallowed]
  rfl

/-- Settles O44: both lists are the operations of the slots in order, by `accepted_runs` and `pipelineOf_eq_slots`. -/
theorem sequencerRunsTheDecodedList : Obligations.SequencerRunsTheDecodedList := by
  intro s p hphase hflags haddr hmax hempty hfit
  obtain ⟨t, hrun, ht⟩ := accepted_runs haddr hfit
  have hpipe := pipelineOf_eq_slots hflags
  have hidle : coreMove t = .idle := by simp [coreMove, ht]
  refine ⟨_, execPduAccept_accepted hphase hmax hempty, ?_⟩
  rw [coreTrace_of_runs hrun hidle ((pipelineOf_length hpipe).trans (by decide)), hpipe]

end Sys2Proof.Proofs

/-! PROOFS. The payload framer (R120 to R123): what each operation of slots E1 and E2 leaves, and the frame after both. -/

namespace Sys2Proof.Proofs

open Sys2Proof Sys2Proof.Machine Sys2Proof.Spec

/-! ### Completing slots E1 to E4 (R225), the CRC span emptied where E3 is skipped (R224; log 19) -/

theorem completeSlot_e1 (s : State) : completeSlot .e1 s = { s with seq := ⟨.encoding, .e2⟩ } :=
  completeSlot_prevSlot_runs (k := .e2) rfl

theorem completeSlot_e4 (s : State) : completeSlot .e4 s = { s with seq := ⟨.encoding, .e5⟩ } :=
  completeSlot_prevSlot_runs (k := .e5) rfl

theorem completeSlot_e3 (s : State) : completeSlot .e3 s = { s with seq := ⟨.encoding, slotFrom4 s⟩ } := by
  cases hwhite : s.whitening with
  | true => rw [slotFrom4, hwhite]; exact completeSlot_prevSlot_runs (k := .e4) hwhite
  | false =>
    rw [slotFrom4, hwhite]
    exact (completeSlot_prevSlot_skips (k := .e4) hwhite).trans (completeSlot_e4 s)

theorem completeSlot_e2 (s : State) :
    completeSlot .e2 s = { s with
      fb := { s.fb with crc := if s.appendCrc then s.fb.crc else [] }, seq := ⟨.encoding, slotFrom3 s⟩ } := by
  cases hcrc : s.appendCrc with
  | true => rw [slotFrom3, hcrc]; exact completeSlot_prevSlot_runs (k := .e3) hcrc
  | false =>
    rw [slotFrom3, hcrc]
    exact (completeSlot_prevSlot_skips (k := .e3) hcrc).trans (completeSlot_e3 (elseEffect .e3 s))

theorem slotFrom3_of_cfg {s u : State} (h : u.cfg = s.cfg) : slotFrom3 u = slotFrom3 s := by
  unfold slotFrom3 State.appendCrc State.whitening
  rw [h]

/-! ### The operations at their slots -/

section
variable {s : State} {p d : List Byte}

/-- R121. -/
theorem doFrmSync_eq (hs : s.seq = ⟨.encoding, .e1⟩) :
    doFrmSync s = { s with fb := { s.fb with sync := some s.cfg.cr2 }, seq := ⟨.encoding, .e2⟩ } := by
  have hcompletes : doFrmSync s = completeSlot .e1 { s with fb := { s.fb with sync := some s.cfg.cr2 } } :=
    slotOp_completes hs rfl rfl
  exact hcompletes.trans (completeSlot_e1 _)

/-- R122: the body is taken from where the mode puts it, and slot E2 is completed. -/
theorem doFrmBody_eq (hs : s.seq = ⟨.encoding, .e2⟩) (hd : (if s.ax25 then s.encap else s.pb) = some d) :
    doFrmBody s = { s with
      fb := { s.fb with body := some d, crc := if s.appendCrc then s.fb.crc else [] },
      seq := ⟨.encoding, slotFrom3 s⟩ } := by
  have hcompletes : doFrmBody s = completeSlot .e2 { s with fb := { s.fb with body := some d } } := by
    refine slotOp_completes hs rfl ?_
    split at hd <;> simp [*]
  exact hcompletes.trans (completeSlot_e2 _)

theorem doAx25Encap_disabled (hoff : s.ax25 = false) : doAx25Encap s = s := by
  simp [doAx25Encap, slotOp, hoff]

theorem doAx25Encap_enabled (hs : s.seq = ⟨.encoding, .e2⟩) (hon : s.ax25 = true) (hpb : s.pb = some p)
    (haddr : s.held.addr = true) : doAx25Encap s = encapped p s := by
  rw [doAx25Encap, hon]
  exact slotOp_run hs (by simp [hpb, readAddr, haddr])

/-- In either mode AX25.ENCAP leaves the body of the closed form where FRM.BODY takes it from, and the frame as it was
(R122, R137). -/
theorem doAx25Encap_readies_body (hs : s.seq = ⟨.encoding, .e2⟩) (hpb : s.pb = some p)
    (haddr : s.ax25 = true → s.held.addr = true) :
    ∃ u, doAx25Encap s = u ∧ (if u.ax25 then u.encap else u.pb) = some (bodyOf s.cfg p) ∧
      u.seq = s.seq ∧ u.fb = s.fb ∧ Within s u := by
  cases hax : s.ax25 with
  | true =>
    have hbody : bodyOf s.cfg p = ax25Encap s.cfg p := if_pos hax
    refine ⟨_, doAx25Encap_enabled hs hax hpb (haddr hax), ?_, rfl, rfl, .of_kept rfl rfl rfl⟩
    rw [hbody]
    exact if_pos hax
  | false =>
    have hbody : bodyOf s.cfg p = p := if_neg (Bool.eq_false_iff.mp hax)
    refine ⟨_, doAx25Encap_disabled hax, ?_, rfl, rfl, .refl s⟩
    rw [hbody, hax]
    exact hpb

end

/-! ### The lengths of the body and of the frame (R123) -/

/-- Two addresses of 7 octets, control and PID, and the 2 octets of the FCS (R137). -/
theorem ax25Encap_length (g : CfgRegs) (p : List Byte) : (ax25Encap g p).length = p.length + 18 := by
  simp [ax25Encap, ax25Hdr, ax25Addr, Callsign.toList, fcsBytes]

theorem bodyOf_length (g : CfgRegs) (p : List Byte) :
    (bodyOf g p).length = p.length + (if flagAx25 g.cr0 then 18 else 0) := by
  unfold bodyOf
  split
  · exact ax25Encap_length g p
  · rfl

theorem runAll_cons {i : Instr} {l : List Instr} {s t : State} (h : exec i s = .next t) :
    runAll (i :: l) s = runAll l t := by
  simp [runAll, h]

/-! ### The frame after slots E1 and E2 (R123) -/

/-- The frame and SEQ between slots E1 and E2 (R120, R121). -/
def synced (s : State) : State :=
  { s with fb := ⟨some s.cfg.cr1, some s.cfg.cr2, none, []⟩, seq := ⟨.encoding, .e2⟩ }

theorem runAll_framer {s : State} (hs : s.seq = ⟨.encoding, .e1⟩) :
    runAll [.frmPre, .frmSync, .ax25Encap, .frmBody] s = .next (doFrmBody (doAx25Encap (synced s))) := by
  have hpre : exec .frmPre s = .next (preFramed s) := congrArg Host.Outcome.next (doFrmPre_eq hs)
  have hsync : exec .frmSync (preFramed s) = .next (synced s) :=
    congrArg Host.Outcome.next (doFrmSync_eq (s := preFramed s) hs)
  rw [runAll_cons hpre, runAll_cons hsync]
  rfl

/-- FRM.BODY after FRM.PRE, FRM.SYNC and AX25.ENCAP: the whole frame, and nothing shared written. -/
theorem doFrmBody_completes_frame {s : State} {p : List Byte} (hpb : s.pb = some p)
    (haddr : s.ax25 = true → s.held.addr = true) :
    ∃ t, doFrmBody (doAx25Encap (synced s)) = t ∧
      t.fb = ⟨some s.cfg.cr1, some s.cfg.cr2, some (bodyOf s.cfg p), []⟩ ∧ t.seq = ⟨.encoding, slotFrom3 s⟩ ∧
      shared t = shared s := by
  obtain ⟨u, hu, hbody, hseq, hfb, hwithin⟩ := doAx25Encap_readies_body (s := synced s) rfl hpb haddr
  have hslot : slotFrom3 u = slotFrom3 s := slotFrom3_of_cfg hwithin.cfg
  have hfb : u.fb = ⟨some s.cfg.cr1, some s.cfg.cr2, none, []⟩ := hfb
  rw [hu]
  refine ⟨_, doFrmBody_eq hseq hbody, ?_, ?_, hwithin.shared_eq⟩
  · simp [hfb, synced]
  · simp [hslot]

/-! ### The obligations -/

/-- Settles O7, by the rules of the two operations at their slot. -/
theorem framerCopiesPreambleAndSync : Obligations.FramerCopiesPreambleAndSync := fun _ hs =>
  ⟨congrArg Host.Outcome.next (doFrmPre_eq hs), congrArg Host.Outcome.next (doFrmSync_eq hs)⟩

/-- Settles O8, by the rule of FRM.BODY at its slot, whose completion `completeSlot_e2` does the "else" of E3. -/
theorem frmBodyAppendsTheBody : Obligations.FrmBodyAppendsTheBody := fun _ _ hs hd =>
  congrArg Host.Outcome.next (doFrmBody_eq hs hd)

/-- Settles O9: the four operations in turn leave the frame of `doFrmBody_completes_frame`, whose spans `bodyOf_length`
counts. -/
theorem framerContract : Obligations.FramerContract := by
  rintro s p ⟨hs, hpb, haddr⟩
  obtain ⟨t, ht, hfb, hseq, hshared⟩ := doFrmBody_completes_frame hpb haddr
  have hbytes : t.fb.bytes = s.cfg.cr1 ++ s.cfg.cr2 ++ bodyOf s.cfg p := by
    rw [hfb]
    exact List.append_nil _
  refine ⟨t, ?_, hfb, hbytes, ?_, bodyOf_length s.cfg p, hseq, congrArg Shared.cfg hshared,
    congrArg Shared.outq hshared, congrArg Shared.sampleCnt hshared, congrArg Shared.err hshared⟩
  · rw [runAll_framer hs, ht]
  · rw [hbytes, List.length_append, List.length_append]

end Sys2Proof.Proofs

/-! PROOFS. The AX.25 frame encoder (R130 to R137, R145): the address field, the header, the frame check sequence, and
AX25.ENCAP. -/

namespace Sys2Proof.Proofs

open Sys2Proof Sys2Proof.Machine Sys2Proof.Spec

/-! ### The sub-operations inside an encode in AX.25 mode -/

/-- FCS holds `w`, which is also the returned value (log 16). -/
def fcsReturned (w : BitVec 16) (s : State) : State := { setFcs w s with res := .word w }

section
variable {s : State} (henc : s.seq.phase = .encoding) (hon : s.ax25 = true)
include henc hon

theorem exec_ax25Addr {a : AddrArg} {k : Callsign} {n : Byte} {last : Bit} (h : readAddr s a = some (k, n)) :
    exec (.ax25Addr a last) s = .next { s with res := .bytes (ax25Addr k n last) } :=
  congrArg Host.Outcome.next (subOp_run henc hon (by simp [h]))

theorem exec_ax25Hdr {p : BytesArg} {l : List Byte} (haddr : s.held.addr = true) (h : readPayload s p = some l) :
    exec (.ax25Hdr p) s = .next { s with res := .bytes (ax25Hdr s.cfg l) } :=
  congrArg Host.Outcome.next (subOp_run henc hon (by simp [h, readAddr, haddr]))

theorem exec_fcsInit : exec .fcsInit s = .next (setFcs fcsInit s) :=
  congrArg Host.Outcome.next (subOp_run henc hon rfl)

theorem exec_fcsBit {f : RegArg 16} {v : BitVec 16} {b : Bit} (h : readFcs s f = some v) :
    exec (.fcsBit f b) s = .next (fcsReturned (fcsBit v b) s) :=
  congrArg Host.Outcome.next (subOp_run henc hon (by simp [h, fcsReturned]))

theorem exec_fcsByte {f : RegArg 16} {v : BitVec 16} {x : Byte} (h : readFcs s f = some v) :
    exec (.fcsByte f x) s = .next (fcsReturned (fcsByte v x) s) :=
  congrArg Host.Outcome.next (subOp_run henc hon (by simp [h, fcsReturned]))

theorem exec_fcsBit_reg {v : BitVec 16} {b : Bit} :
    exec (.fcsBit .reg b) (fcsReturned v s) = .next (fcsReturned (fcsBit v b) s) :=
  exec_fcsBit (s := fcsReturned v s) henc hon rfl

theorem exec_fcsByte_reg {v : BitVec 16} {x : Byte} :
    exec (.fcsByte .reg x) (fcsReturned v s) = .next (fcsReturned (fcsByte v x) s) :=
  exec_fcsByte (s := fcsReturned v s) henc hon rfl

theorem exec_ax25Fcs {h : BytesArg} {l : List Byte} (hl : readHeader s h = some l) :
    exec (.ax25Fcs h) s =
      .next { setFcs (fcsReg l) s with res := .fcs (fcsValue l) (fcsBytes (fcsValue l)) } :=
  congrArg Host.Outcome.next (subOp_run henc hon (by simp [hl]))

end

/-- Operations on the FCS register one after the other fold their steps over it. -/
theorem runAll_fcsReturned {α : Type} {op : α → Instr} {next : BitVec 16 → α → BitVec 16} {s : State}
    (hop : ∀ v a, exec (op a) (fcsReturned v s) = .next (fcsReturned (next v a) s)) (l : List α) (v : BitVec 16) :
    runAll (l.map op) (fcsReturned v s) = .next (fcsReturned (l.foldl next v) s) := by
  induction l generalizing v with
  | nil => rfl
  | cons a l ih => exact (runAll_cons (hop v a)).trans (ih (next v a))

/-! ### The address field (R131, R94) -/

theorem callOctet_eq (c : Byte) : callOctet c = c.extractLsb' 0 7 ++ 0#1 := by
  refine BitVec.eq_of_getLsbD_eq fun i hi => ?_
  rw [callOctet, BitVec.getLsbD_shiftLeft, BitVec.getLsbD_append, BitVec.getLsbD_extractLsb']
  cases i with
  | zero => rfl
  | succ i => simp [hi, Nat.lt_of_succ_lt_succ hi]

theorem ssidOctet_eq (n : Byte) (last : Bit) :
    ssidOctet n last = 0b011#3 ++ n.extractLsb' 0 4 ++ BitVec.ofBool last := by
  refine BitVec.eq_of_getLsbD_eq fun i hi => ?_
  simp only [ssidOctet, BitVec.getLsbD_or, BitVec.getLsbD_shiftLeft, BitVec.getLsbD_and, BitVec.getLsbD_append,
    BitVec.getLsbD_extractLsb']
  cases last <;> interval_cases i <;> simp [ax25SsidBase]

theorem ax25Addr_eq (k : Callsign) (n : Byte) (last : Bit) :
    ax25Addr k n last = [k.c0.extractLsb' 0 7 ++ 0#1, k.c1.extractLsb' 0 7 ++ 0#1, k.c2.extractLsb' 0 7 ++ 0#1,
      k.c3.extractLsb' 0 7 ++ 0#1, k.c4.extractLsb' 0 7 ++ 0#1, k.c5.extractLsb' 0 7 ++ 0#1,
      0b011#3 ++ n.extractLsb' 0 4 ++ BitVec.ofBool last] := by
  simp only [ax25Addr, Callsign.toList, List.map_cons, List.map_nil, List.cons_append, List.nil_append, callOctet_eq,
    ssidOctet_eq]

/-! ### The header (R132) and the encapsulation (R137) -/

section
variable (g : CfgRegs) (p : List Byte)

theorem ax25Hdr_length : (ax25Hdr g p).length = 16 + p.length := by
  rw [ax25Hdr, List.length_append]
  rfl

theorem ax25Hdr_dest : (ax25Hdr g p).take 7 = ax25Addr g.cr3 g.cr4 false := rfl
theorem ax25Hdr_src : ((ax25Hdr g p).drop 7).take 7 = ax25Addr g.cr5 g.cr6 true := rfl
theorem ax25Hdr_control : ((ax25Hdr g p).drop 14).take 2 = [0x03#8, 0xF0#8] := rfl
theorem ax25Hdr_payload : (ax25Hdr g p).drop 16 = p := rfl

/-- The encapsulation is laid out as a header whose payload is followed by the FCS bytes. -/
theorem ax25Encap_eq : ax25Encap g p = ax25Hdr g (p ++ fcsBytes (fcsValue (ax25Hdr g p))) := by
  simp only [ax25Encap, ax25Hdr, List.append_assoc]

end

/-! ### The frame check sequence (R133 to R136) -/

/-- The taps of 0x8408. -/
theorem fcsPolyR_getLsbD : ∀ i < 16, fcsPolyR.getLsbD i = decide (i = 15 ∨ i = 10 ∨ i = 3) := by decide

/-- The register shifted right, with the feedback at the taps. -/
theorem fcsBit_getLsbD_shift (v : BitVec 16) (b : Bit) {i : Nat} (hi : i < 16) :
    (fcsBit v b).getLsbD i = (v.getLsbD (i + 1) ^^ ((v.getLsbD 0 ^^ b) && decide (i = 15 ∨ i = 10 ∨ i = 3))) := by
  unfold fcsBit
  split
  next h => rw [BitVec.getLsbD_xor, BitVec.getLsbD_ushiftRight, fcsPolyR_getLsbD i hi, h, Bool.true_and, Nat.add_comm]
  next h => rw [BitVec.getLsbD_ushiftRight, Bool.eq_false_iff.mpr h, Bool.false_and, Bool.xor_false, Nat.add_comm]

theorem fcsBit_getLsbD (v : BitVec 16) (b : Bit) {i : Nat} (hi : i < 16) : (fcsBit v b).getLsbD i = fcsBitAt v b i := by
  rw [fcsBit_getLsbD_shift v b hi, fcsBitAt]
  by_cases htop : i = 15
  · subst htop
    simp
  · by_cases htap : i = 10 ∨ i = 3 <;> simp [htop, htap]

/-! ### The residue (R145) -/

/-- FCS.BIT is linear: with `r` added to the register and bit 0 of `r` to the bit, the feedback is as without, and `r`,
shifted, stays added. -/
theorem fcsBit_xor (r k : BitVec 16) (b : Bit) : fcsBit (r ^^^ k) (r.getLsbD 0 ^^ b) = (r >>> 1) ^^^ fcsBit k b := by
  have hfeedback : ((r ^^^ k).getLsbD 0 ^^ (r.getLsbD 0 ^^ b)) = (k.getLsbD 0 ^^ b) := by
    rw [BitVec.getLsbD_xor]
    cases r.getLsbD 0 <;> simp
  unfold fcsBit
  rw [hfeedback, BitVec.ushiftRight_xor_distrib]
  split
  · exact BitVec.xor_assoc _ _ _
  · rfl

/-- The same for `n` bits of `r` in turn. -/
theorem fcsBits_xor (r k : BitVec 16) (y : Nat → Bit) (n : Nat) :
    (List.range n).foldl (fun f i => fcsBit f (r.getLsbD i ^^ y i)) (r ^^^ k) =
      (r >>> n) ^^^ (List.range n).foldl (fun f i => fcsBit f (y i)) k := by
  induction n with
  | zero => simp
  | succ n ih =>
    have hbit : r.getLsbD n = (r >>> n).getLsbD 0 := by simp
    simp only [List.range_succ, List.foldl_append, List.foldl_cons, List.foldl_nil, ih]
    rw [hbit, fcsBit_xor, ← BitVec.shiftRight_add]

theorem fcsByte_xor (r k : BitVec 16) (y : Byte) :
    fcsByte (r ^^^ k) (r.extractLsb' 0 8 ^^^ y) = (r >>> 8) ^^^ fcsByte k y := by
  have hbyte : fcsByte (r ^^^ k) (r.extractLsb' 0 8 ^^^ y) =
      (List.range 8).foldl (fun f i => fcsBit f (r.getLsbD i ^^ y.getLsbD i)) (r ^^^ k) := by
    simp [fcsByte, List.range_succ]
  exact hbyte.trans (fcsBits_xor r k y.getLsbD 8)

theorem fcsReg_append (h l : List Byte) : fcsReg (h ++ l) = l.foldl fcsByte (fcsReg h) := List.foldl_append

/-- The register shifts out against its own complement: what is left is the same for every sequence. -/
theorem fcsReg_residue (h : List Byte) : fcsReg (h ++ fcsBytes (fcsValue h)) = 0xF0B8#16 := by
  rw [fcsReg_append, fcsValue]
  generalize fcsReg h = r
  have hlow : (r ^^^ fcsXorOut).extractLsb' 0 8 = r.extractLsb' 0 8 ^^^ 0xFF#8 := by
    simp [BitVec.extractLsb'_xor, fcsXorOut]
  have hhigh : (r ^^^ fcsXorOut).extractLsb' 8 8 = (r >>> 8).extractLsb' 0 8 ^^^ 0xFF#8 := by
    refine BitVec.eq_of_getLsbD_eq fun i hi => ?_
    have hone : fcsXorOut.getLsbD (8 + i) = (0xFF#8).getLsbD i := by
      interval_cases i <;> rfl
    simp only [BitVec.getLsbD_extractLsb', BitVec.getLsbD_xor, BitVec.getLsbD_ushiftRight, Nat.zero_add, hone, hi,
      decide_true, Bool.true_and]
  have hout : (r >>> 8) >>> 8 = 0#16 := by
    rw [← BitVec.shiftRight_add]
    exact BitVec.ushiftRight_eq_zero (le_refl 16)
  calc (fcsBytes (r ^^^ fcsXorOut)).foldl fcsByte r
      = fcsByte (fcsByte (r ^^^ 0#16) (r.extractLsb' 0 8 ^^^ 0xFF#8)) ((r >>> 8).extractLsb' 0 8 ^^^ 0xFF#8) := by
        simp [fcsBytes, hlow, hhigh]
    _ = 0#16 ^^^ fcsByte (fcsByte 0#16 0xFF#8) 0xFF#8 := by rw [fcsByte_xor, fcsByte_xor, hout]
    _ = 0xF0B8#16 := by simp [fcsByte, fcsBit, fcsPolyR]

/-! ### The obligations -/

/-- Settles O10: the octets are those of `ax25Addr_eq`. -/
theorem addressOctets : Obligations.AddressOctets := fun _ _ k n last henc hon h =>
  ⟨ax25Addr k n last, exec_ax25Addr henc hon h, ax25Addr_eq k n last⟩

/-- Settles O11, by the place of each field in the header. -/
theorem headerLayout : Obligations.HeaderLayout := by
  intro s p l henc hon haddr h
  refine ⟨ax25Hdr s.cfg l, exec_ax25Hdr henc hon haddr h, ax25Hdr_length s.cfg l, ?_, ?_, ax25Hdr_control s.cfg l,
    ax25Hdr_payload s.cfg l⟩
  · rw [ax25Hdr_dest]
    exact exec_ax25Addr henc hon (if_pos haddr)
  · rw [ax25Hdr_src]
    exact exec_ax25Addr henc hon (if_pos haddr)

/-- Settles O12, by the bits of `fcsBit_getLsbD`. -/
theorem fcsInitAndBit : Obligations.FcsInitAndBit := fun _ henc hon =>
  ⟨exec_fcsInit henc hon, fun _ v b hv =>
    ⟨fcsBit v b, exec_fcsBit henc hon hv, fun _ hi => fcsBit_getLsbD v b hi⟩⟩

/-- Settles O13: after the first FCS.BIT the other seven fold over the register. -/
theorem fcsByteIsEightBits : Obligations.FcsByteIsEightBits := fun _ _ v x henc hon hv =>
  ⟨fcsByte v x, exec_fcsByte henc hon hv, (runAll_cons (exec_fcsBit henc hon hv)).trans
    (runAll_fcsReturned (op := fun i => .fcsBit .reg (x.getLsbD i)) (fun _ _ => exec_fcsBit_reg henc hon)
      [1, 2, 3, 4, 5, 6, 7] _)⟩

/-- Settles O14: the FCS.BYTEs fold over the register from FCS_INIT, as `fcsReg` does. -/
theorem fcsOfASequence : Obligations.FcsOfASequence := by
  intro s h l henc hon hl
  have hinit : exec .fcsInit s = .next (setFcs fcsInit s) := exec_fcsInit henc hon
  refine ⟨fcsReg l, ?_⟩
  cases l with
  | nil => exact ⟨setFcs fcsInit s, exec_ax25Fcs henc hon hl, runAll_cons hinit, rfl⟩
  | cons x l =>
    have hfirst : exec (.fcsByte .reg x) (setFcs fcsInit s) = .next (fcsReturned (fcsByte fcsInit x) s) :=
      exec_fcsByte (s := setFcs fcsInit s) henc hon rfl
    have hrest := runAll_fcsReturned (op := .fcsByte .reg) (fun _ _ => exec_fcsByte_reg henc hon) l (fcsByte fcsInit x)
    exact ⟨fcsReturned (fcsReg (x :: l)) s, exec_ax25Fcs henc hon hl,
      (runAll_cons hinit).trans ((runAll_cons hfirst).trans hrest), rfl⟩

/-- Settles O15, by `fcsReg_residue`. -/
theorem fcsResidue : Obligations.FcsResidue := fun _ h henc hon =>
  ⟨_, _, fcsValue h, fcsBytes (fcsValue h), exec_ax25Fcs henc hon rfl, rfl, exec_ax25Fcs henc hon rfl,
    fcsReg_residue h⟩

/-- Settles O16: the encapsulation is a header in the layout of R132, whose payload is followed by the FCS bytes. -/
theorem encapsulationFormat : Obligations.EncapsulationFormat := by
  intro s p hs hon haddr hpb
  have hexec : exec .ax25Encap s = .next (encapped p s) :=
    congrArg Host.Outcome.next (doAx25Encap_enabled hs hon hpb haddr)
  have htail : (ax25Encap s.cfg p).drop 16 = p ++ fcsBytes (fcsValue (ax25Hdr s.cfg p)) := by
    rw [ax25Encap_eq, ax25Hdr_payload]
  have hcovered : (ax25Encap s.cfg p).take (16 + p.length) = ax25Hdr s.cfg p := by
    rw [← ax25Hdr_length s.cfg p]
    exact List.take_left
  refine ⟨ax25Encap s.cfg p, fcsReg (ax25Hdr s.cfg p), hexec.trans ?_, ax25Encap_length s.cfg p,
    ?_, ?_, ?_, ?_, ?_, ?_⟩
  · simp only [encapped, setFcs]
  · rw [ax25Encap_eq, ax25Hdr_dest]
  · rw [ax25Encap_eq, ax25Hdr_src]
  · rw [ax25Encap_eq, ax25Hdr_control]
  · rw [htail, List.take_left]
  · rw [← List.drop_drop, htail, List.drop_left]
    rfl
  · rw [hcovered]

end Sys2Proof.Proofs

/-! PROOFS. The bit stuffer (R138, R139, R143, R144): what it puts out over any bit sequence, `Stuffed`, AX25.STUFF at
its slot, and the lengths of the line and of the burst. -/

namespace Sys2Proof.Proofs

open Sys2Proof Sys2Proof.Machine Sys2Proof.Spec

/-! ### One bit (R138) -/

theorem stuffBit_one {n : BitVec 3} (hn : n.toNat < 4) : stuffBit n true = ([true], n + 1#3) := by
  have hne : n.toNat + 1 ≠ 5 := by omega
  simp [stuffBit, hne]

theorem readOnes_le {s : State} {a : RegArg 3} {v : BitVec 3} (h : readOnes s a = some v) : v.toNat ≤ 4 := by
  unfold readOnes at h
  split at h
  · obtain ⟨hlegal, hv⟩ := Option.ite_none_right_eq_some.mp h
    obtain rfl := Option.some.inj hv
    simpa [onesLegal, BitVec.le_def] using hlegal
  · cases h

theorem exec_stuffBit {s : State} {a : RegArg 3} {v : BitVec 3} {b : Bit} (henc : s.seq.phase = .encoding)
    (hon : s.ax25 = true) (h : readOnes s a = some v) :
    exec (.stuffBit a b) s = .next { setOnes (stuffBit v b).2 s with res := .bits (stuffBit v b).1 } :=
  congrArg Host.Outcome.next (subOp_run henc hon (by simp [h]))

/-! ### A bit sequence (R139) -/

/-- After `n` consecutive 1 bits, at most four, the stuffer puts `out` out over `l`. -/
inductive Stuffed : Nat → List Bit → List Bit → Prop
  | nil {n : Nat} (hn : n ≤ 4) : Stuffed n [] []
  | zero {n : Nat} {l out : List Bit} (hn : n ≤ 4) (h : Stuffed 0 l out) : Stuffed n (false :: l) (false :: out)
  | one {n : Nat} {l out : List Bit} (hn : n < 4) (h : Stuffed (n + 1) l out) : Stuffed n (true :: l) (true :: out)
  | fifth {l out : List Bit} (h : Stuffed 0 l out) : Stuffed 4 (true :: l) (true :: false :: out)

theorem stuffFrom_stuffed {n : BitVec 3} (hn : n.toNat ≤ 4) (l : List Bit) : Stuffed n.toNat l (stuffFrom n l).1 := by
  induction l generalizing n with
  | nil => exact .nil hn
  | cons b l ih =>
    have hcleared : Stuffed 0 l (stuffFrom 0#3 l).1 := ih (n := 0#3) (Nat.zero_le 4)
    rw [stuffFrom]
    cases b with
    | false => exact .zero hn hcleared
    | true =>
      rcases Nat.lt_or_eq_of_le hn with hlt | hfour
      · have hcount : (n + 1#3).toNat = n.toNat + 1 := by bv_omega
        rw [stuffBit_one hlt]
        exact .one hlt (hcount ▸ ih (hcount ▸ hlt))
      · obtain rfl : n = 4#3 := BitVec.eq_of_toNat_eq hfour
        exact .fifth hcleared

theorem stuff_stuffed (l : List Bit) : Stuffed 0 l (stuff l) := stuffFrom_stuffed (n := 0#3) (Nat.zero_le 4) l

/-- The stuffer over a sequence is STUFF.BIT applied to its bits in turn. -/
theorem foldl_stuffBit (l acc : List Bit) (n : BitVec 3) :
    l.foldl (fun a b => (a.1 ++ (stuffBit a.2 b).1, (stuffBit a.2 b).2)) (acc, n) =
      (acc ++ (stuffFrom n l).1, (stuffFrom n l).2) := by
  induction l generalizing acc n with
  | nil => simp [stuffFrom]
  | cons b l ih => rw [List.foldl_cons, ih, stuffFrom, List.append_assoc]

/-! ### No six 1 bits in a row, and back again (R143) -/

theorem eq_nil_of_ones_prefix {l b : List Bit} (hones : ∀ x ∈ l, x = true) (h : l <+: false :: b) : l = [] := by
  cases l with
  | nil => rfl
  | cons x l =>
    obtain ⟨rfl, -⟩ := List.cons_prefix_cons.mp h
    cases hones false List.mem_cons_self

/-- A run of 1 bits does not reach over a 0. -/
theorem ones_infix_of_split {m : Nat} {a b : List Bit} (h : List.replicate m true <:+: a ++ false :: b) :
    List.replicate m true <:+: a ∨ List.replicate m true <:+: b := by
  have hones : ∀ x ∈ List.replicate m true, x = true := fun _ => List.eq_of_mem_replicate
  rcases List.infix_append_iff.mp h with ha | hb | ⟨l₁, l₂, hsplit, hsuffix, hprefix⟩
  · exact .inl ha
  · refine (List.infix_cons_iff.mp hb).imp (fun hprefix => ?_) id
    rw [eq_nil_of_ones_prefix hones hprefix]
    exact List.nil_infix
  · have hnil : l₂ = [] :=
      eq_nil_of_ones_prefix (fun x hx => hones x (hsplit ▸ List.mem_append_right l₁ hx)) hprefix
    rw [hsplit, hnil, List.append_nil]
    exact .inl hsuffix.isInfix

theorem not_six_ones_of_le {n : Nat} (hn : n ≤ 5) : ¬ List.replicate 6 true <:+: List.replicate n true := fun h => by
  have hlen := h.length_le
  rw [List.length_replicate, List.length_replicate] at hlen
  omega

theorem Stuffed.not_six_ones {n : Nat} {l out : List Bit} (h : Stuffed n l out) :
    ¬ List.replicate 6 true <:+: List.replicate n true ++ out := by
  induction h with
  | nil hn =>
    rw [List.append_nil]
    exact not_six_ones_of_le (by omega)
  | zero hn _ ih => exact fun hsix => (ones_infix_of_split hsix).elim (not_six_ones_of_le (by omega)) ih
  | @one n _ out _ _ ih =>
    have hrun : List.replicate (n + 1) true ++ out = List.replicate n true ++ true :: out := by
      rw [List.replicate_succ', List.append_assoc, List.singleton_append]
    exact hrun ▸ ih
  | fifth _ ih =>
    exact fun hsix => (ones_infix_of_split (a := List.replicate 5 true) hsix).elim (not_six_ones_of_le (le_refl 5)) ih

theorem Stuffed.destuffFrom_eq {n : Nat} {l out : List Bit} (h : Stuffed n l out) : destuffFrom n out = l := by
  induction h with
  | nil _ => rfl
  | zero hn _ ih =>
    rw [destuffFrom, if_neg (by omega)]
    exact congrArg _ ih
  | one hn _ ih =>
    rw [destuffFrom, if_neg (by omega)]
    exact congrArg _ ih
  | fifth _ ih => exact congrArg _ ih

/-! ### How much a sequence grows (R144) -/

/-- Every stuffed 0 follows five 1 bits of its own, of which `n` may have come before. -/
theorem Stuffed.growth {n : Nat} {l out : List Bit} (h : Stuffed n l out) :
    ∃ k, out.length = l.length + k ∧ 5 * k ≤ n + l.length := by
  induction h with
  | nil _ => exact ⟨0, rfl, by omega⟩
  | zero _ _ ih | one _ _ ih =>
    obtain ⟨k, hlen, hk⟩ := ih
    exact ⟨k, by simp only [List.length_cons]; omega, by simp only [List.length_cons]; omega⟩
  | fifth _ ih =>
    obtain ⟨k, hlen, hk⟩ := ih
    exact ⟨k + 1, by simp only [List.length_cons]; omega, by simp only [List.length_cons]; omega⟩

theorem Stuffed.length_of_ones {n : Nat} {l out : List Bit} (h : Stuffed n l out) (hones : ∀ b ∈ l, b = true) :
    out.length = l.length + (n + l.length) / 5 := by
  induction h with
  | nil hn =>
    rw [List.length_nil]
    omega
  | zero _ _ _ => cases hones false List.mem_cons_self
  | one _ _ ih | fifth _ ih =>
    have hlen := ih fun b hb => hones b (List.mem_cons_of_mem _ hb)
    simp only [List.length_cons, hlen]
    omega

/-! ### AX25.STUFF at its slot (R139, R224, R225; log 19) -/

theorem completeSlot_e7 (s : State) : completeSlot .e7 s = { s with seq := ⟨.encoding, .e8⟩ } :=
  completeSlot_prevSlot_runs (k := .e8) rfl

theorem completeSlot_e6 (s : State) :
    completeSlot .e6 s = { s with
      bb := { s.bb with line := if s.manchester then s.bb.line else plainLine s.bb },
      seq := ⟨.encoding, slotFrom7 s⟩ } := by
  cases hmanch : s.manchester with
  | true => rw [slotFrom7, hmanch]; exact completeSlot_prevSlot_runs (k := .e7) hmanch
  | false =>
    rw [slotFrom7, hmanch]
    exact (completeSlot_prevSlot_skips (k := .e7) hmanch).trans (completeSlot_e7 (elseEffect .e7 s))

/-- The state after AX25.STUFF over the body `d`, before the slot is completed. -/
def stuffedBody (d : List Bit) (s : State) : State :=
  { setOnes (stuffFrom 0 d).2 s with bb := { s.bb with body := some (stuff d) } }

theorem exec_ax25Stuff {s : State} {d : List Bit} (hs : s.seq = ⟨.encoding, .e6⟩) (hon : s.ax25 = true)
    (hd : s.bb.body = some d) : exec .ax25Stuff s = .next (completeSlot .e6 (stuffedBody d s)) :=
  congrArg Host.Outcome.next (slotOp_completes hs hon (by simp [hd, stuffedBody]))

/-! ### The lengths of the spans, of the line and of the burst (R222) -/

theorem serSpan_length (m : Bit) (l : List Byte) : (serSpan m l).length = 8 * l.length := by
  have hbyte (x : Byte) : (serByte x m).length = 8 := by cases m <;> rfl
  simp [serSpan, List.length_flatMap, hbyte, Nat.mul_comm]

theorem manchBits_length (l : List Bit) : (manchBits l).length = 2 * l.length := by
  have hbit (b : Bit) : (manchBit b).length = 2 := by cases b <;> rfl
  simp [manchBits, List.length_flatMap, hbit, Nat.mul_comm]

section
variable (g : CfgRegs) (p : List Byte)

theorem crcSpanOf_length : (crcSpanOf g p).length = if flagAppendCrc g.cr0 then 2 else 0 := by
  unfold crcSpanOf
  split <;> rfl

theorem dataOf_length :
    (dataOf g p).length = g.cr2.length + (bodyOf g p).length + (crcSpanOf g p).length := by
  unfold dataOf
  split <;> simp [whitenFrom_length, Nat.add_assoc]

theorem syncOut_length : (syncOut g p).length = g.cr2.length := by
  rw [syncOut, List.length_take, dataOf_length]
  omega

theorem bodyOut_length : (bodyOut g p).length = (bodyOf g p).length := by
  rw [bodyOut, List.length_take, List.length_drop, dataOf_length]
  omega

theorem crcOut_length : (crcOut g p).length = (crcSpanOf g p).length := by
  rw [crcOut, List.length_drop, dataOf_length, Nat.add_sub_cancel_left]

theorem bodyBits_length : (bodyBits g p).length = 8 * (p.length + if flagAx25 g.cr0 then 18 else 0) := by
  rw [bodyBits, serSpan_length, bodyOut_length, bodyOf_length]

/-- The formula of R222, `k` being the number of bits that stuffing adds to the body. -/
theorem lineOf_length {k : Nat} (hk : (bodyLine g p).length = (bodyBits g p).length + k) :
    (lineOf g p).length = lineLenFormula g p.length k := by
  have hcrc : 8 * (crcSpanOf g p).length = if flagAppendCrc g.cr0 then 16 else 0 := by
    rw [crcSpanOf_length]
    split <;> rfl
  cases hmanch : flagManchester g.cr0 with
  | true =>
    simp only [lineOf_manchester hmanch, lineLenFormula, List.length_append, apply_ite List.length, manchBits_length,
      serSpan_length, syncOut_length, crcOut_length, hcrc, hk, bodyBits_length, hmanch, Bool.true_and, if_true]
    split <;> omega
  | false =>
    simp only [lineOf_plain hmanch, lineLenFormula, List.length_append, serSpan_length, syncOut_length, crcOut_length,
      hcrc, hk, bodyBits_length, hmanch, Bool.false_and, Bool.false_eq_true, if_false]
    omega

end

/-! ### The obligations -/

/-- Settles O17, by the three cases of STUFF.BIT. -/
theorem stuffBitResult : Obligations.StuffBitResult := by
  intro s n v b henc hon hv
  rw [exec_stuffBit henc hon hv]
  cases b with
  | false => rfl
  | true =>
    rcases Nat.lt_or_eq_of_le (readOnes_le hv) with hlt | hfour
    · have hne : v ≠ 4#3 := fun h => absurd (h ▸ hlt) (by decide)
      rw [stuffBit_one hlt, if_neg hne, if_neg hne]
      rfl
    · obtain rfl : v = 4#3 := BitVec.eq_of_toNat_eq hfour
      rfl

/-- Settles O18: completing slot E6 keeps the stuffed body, which `foldl_stuffBit` gives bit by bit. -/
theorem stuffReplacesTheBody : Obligations.StuffReplacesTheBody := by
  intro s p y d c hs hon hpre hsync hbody hcrc
  refine ⟨stuff d, (stuffFrom 0 d).2, ?_, (foldl_stuffBit d [] 0#3).symm⟩
  have hline : plainLine (stuffedBody d s).bb = some (p ++ y ++ stuff d ++ c) := by
    simp [stuffedBody, plainLine, hpre, hsync, hcrc]
  have hmode : (stuffedBody d s).manchester = s.manchester := rfl
  have hslot : slotFrom7 (stuffedBody d s) = slotFrom7 s := rfl
  rw [exec_ax25Stuff hs hon hbody, completeSlot_e6, hline, hmode, hslot]
  simp [stuffedBody, hpre, hsync, hcrc]

/-- Settles O19, by the two properties of everything the stuffer puts out. -/
theorem stuffingIsBoundedAndReversible : Obligations.StuffingIsBoundedAndReversible := fun s d hs hon hbody =>
  ⟨completeSlot .e6 (stuffedBody d s), stuff d, exec_ax25Stuff hs hon hbody,
    congrArg (fun t => t.bb.body) (completeSlot_e6 (stuffedBody d s)), (stuff_stuffed d).not_six_ones,
    (stuff_stuffed d).destuffFrom_eq⟩

/-- Settles O20, by the growth of a stuffed sequence and the lengths of the spans. -/
theorem stuffingExpansion : Obligations.StuffingExpansion := by
  have hgrowth (d : List Bit) : ∃ k, (stuff d).length = d.length + k ∧ k ≤ d.length / 5 := by
    obtain ⟨k, hlen, hk⟩ := (stuff_stuffed d).growth
    exact ⟨k, hlen, by omega⟩
  refine ⟨hgrowth, fun n => ?_, fun g p hon => ?_⟩
  · simpa using (stuff_stuffed (List.replicate n true)).length_of_ones fun _ => List.eq_of_mem_replicate
  · have hbits : (bodyBits g p).length = 8 * (p.length + 18) := by rw [bodyBits_length, hon, if_pos rfl]
    have hstuff : bodyLine g p = stuff (bodyBits g p) := if_pos hon
    obtain ⟨k, hlen, hk⟩ := hgrowth (bodyBits g p)
    rw [← hstuff] at hlen
    refine ⟨hbits, k, hbits ▸ hk, hbits ▸ hlen, ?_⟩
    rw [burstOf_length, lineOf_length g p hlen]

end Sys2Proof.Proofs

/-! PROOFS. The CRC-16 generator (R160 to R167): one step of the register is linear over XOR, and a register fed with
its own top bits only shifts; the byte-parallel form, the residue and the linearity of the CRC follow from these two. -/

namespace Sys2Proof.Proofs

open Sys2Proof Sys2Proof.Machine Sys2Proof.Spec

/-! ### The operations inside an encode with `append_crc` = 1 -/

/-- CRC holds `w`, which is also the returned value (log 16). -/
def crcReturned (w : BitVec 16) (s : State) : State := { setCrc w s with res := .word w }

/-- CRC_XOROUT is 0: the register is the value returned (R164). -/
theorem crcRun_eq (init : BitVec 16) (l : List Byte) : crcRun init l = crcReg init l := BitVec.xor_zero

section
variable {s : State} (henc : s.seq.phase = .encoding) (hon : s.appendCrc = true)
include henc hon

theorem exec_crc16Init : exec .crc16Init s = .next (setCrc crcInit s) :=
  congrArg Host.Outcome.next (subOp_run henc hon rfl)

theorem exec_crc16Bit {c : RegArg 16} {v : BitVec 16} {b : Bit} (h : readCrc s c = some v) :
    exec (.crc16Bit c b) s = .next (crcReturned (crcBit v b) s) :=
  congrArg Host.Outcome.next (subOp_run henc hon (by simp [h, crcReturned]))

theorem exec_crc16Byte {c : RegArg 16} {v : BitVec 16} {x : Byte} (h : readCrc s c = some v) :
    exec (.crc16Byte c x) s = .next (crcReturned (crcByte v x) s) :=
  congrArg Host.Outcome.next (subOp_run henc hon (by simp [h, crcReturned]))

theorem exec_crc16Bit_reg {v : BitVec 16} {b : Bit} :
    exec (.crc16Bit .reg b) (crcReturned v s) = .next (crcReturned (crcBit v b) s) :=
  exec_crc16Bit (s := crcReturned v s) henc hon rfl

theorem exec_crc16Byte_reg {v : BitVec 16} {x : Byte} :
    exec (.crc16Byte .reg x) (crcReturned v s) = .next (crcReturned (crcByte v x) s) :=
  exec_crc16Byte (s := crcReturned v s) henc hon rfl

theorem exec_crc16Run {d : BytesArg} {init : InitArg} {l : List Byte} (h : readFrame s d = some l) :
    exec (.crc16Run d init) s = .next (crcReturned (crcReg (readInit init) l) s) :=
  congrArg Host.Outcome.next (subOp_run henc hon (by simp [h, crcReturned, crcRun_eq]))

end

/-- Operations that each take one of a family of states to another fold their steps over its parameter. -/
theorem runAll_map_foldl {α β : Type} {op : α → Instr} {next : β → α → β} {st : β → State}
    (hop : ∀ v a, exec (op a) (st v) = .next (st (next v a))) (l : List α) (v : β) :
    runAll (l.map op) (st v) = .next (st (l.foldl next v)) := by
  induction l generalizing v with
  | nil => rfl
  | cons a l ih => exact (runAll_cons (hop v a)).trans (ih (next v a))

/-! ### One bit (R162) -/

/-- The register shifted left, with CRC_POLY added where the feedback is 1. -/
theorem crcBit_eq (c : BitVec 16) (b : Bit) :
    crcBit c b = (c <<< 1) ^^^ (if c.getLsbD 15 ^^ b then crcPoly else 0#16) := by
  unfold crcBit
  split
  · rfl
  · exact BitVec.xor_zero.symm

/-- The taps of 0x1021. -/
theorem crcPoly_getLsbD : ∀ i < 16, crcPoly.getLsbD i = decide (i = 0 ∨ i = 5 ∨ i = 12) := by decide

theorem crcBit_getLsbD (c : BitVec 16) (b : Bit) {i : Nat} (hi : i < 16) : (crcBit c b).getLsbD i = crcBitAt c b i := by
  have htaps : (if c.getLsbD 15 ^^ b then crcPoly else 0#16).getLsbD i =
      ((c.getLsbD 15 ^^ b) && decide (i = 0 ∨ i = 5 ∨ i = 12)) := by
    rw [← crcPoly_getLsbD i hi]
    cases c.getLsbD 15 ^^ b <;> simp
  rw [crcBit_eq, BitVec.getLsbD_xor, BitVec.getLsbD_shiftLeft, htaps, crcBitAt]
  by_cases hlow : i = 0
  · simp [hlow]
  · have hshift : ¬ i < 1 := by omega
    by_cases htap : i = 5 ∨ i = 12 <;> simp [hi, hlow, hshift, htap]

/-- CRC16.BIT is linear over XOR, in the register and the bit together. -/
theorem crcBit_xor (c k : BitVec 16) (a b : Bit) : crcBit (c ^^^ k) (a ^^ b) = crcBit c a ^^^ crcBit k b := by
  have hfeedback : ((c ^^^ k).getLsbD 15 ^^ (a ^^ b)) = ((c.getLsbD 15 ^^ a) ^^ (k.getLsbD 15 ^^ b)) := by
    rw [BitVec.getLsbD_xor, Bool.xor_assoc, Bool.xor_assoc, Bool.xor_left_comm a]
  have hpoly (p q : Bit) : (if p ^^ q then crcPoly else 0#16) =
      (if p then crcPoly else 0#16) ^^^ (if q then crcPoly else 0#16) := by
    cases p <;> cases q <;> simp
  simp only [crcBit_eq, hfeedback, hpoly, BitVec.shiftLeft_xor_distrib]
  ac_rfl

/-- A register fed with its own top bit has no feedback. -/
theorem crcBit_top (c : BitVec 16) : crcBit c (c.getLsbD 15) = c <<< 1 := by
  simp [crcBit]

/-! ### One byte (R163, R166) -/

theorem crcBits_xor (c k : BitVec 16) (x y : Byte) (l : List Nat) :
    l.foldl (fun r i => crcBit r ((x ^^^ y).getLsbD i)) (c ^^^ k) =
      l.foldl (fun r i => crcBit r (x.getLsbD i)) c ^^^ l.foldl (fun r i => crcBit r (y.getLsbD i)) k := by
  induction l generalizing c k with
  | nil => rfl
  | cons i l ih => simp only [List.foldl_cons, BitVec.getLsbD_xor, crcBit_xor, ← ih]

theorem crcByte_xor (c k : BitVec 16) (x y : Byte) : crcByte (c ^^^ k) (x ^^^ y) = crcByte c x ^^^ crcByte k y :=
  crcBits_xor c k x y _

/-- A register fed with its own top `n` bits only shifts. -/
theorem crcBits_top (c : BitVec 16) {n : Nat} (hn : n ≤ 16) :
    (List.range n).foldl (fun r i => crcBit r (c.getLsbD (15 - i))) c = c <<< n := by
  induction n with
  | zero => simp
  | succ n ih =>
    have htop : c.getLsbD (15 - n) = (c <<< n).getLsbD 15 := by
      rw [BitVec.getLsbD_shiftLeft, decide_eq_false (by omega : ¬ 15 < n)]
      rfl
    rw [List.range_succ, List.foldl_append, ih (by omega), List.foldl_cons, List.foldl_nil, htop, crcBit_top,
      ← BitVec.shiftLeft_add]

/-- A register fed with its own high byte only shifts. -/
theorem crcByte_high (c : BitVec 16) : crcByte c (c.extractLsb' 8 8) = c <<< 8 := by
  have hbits : crcByte c (c.extractLsb' 8 8) =
      (List.range 8).foldl (fun r i => crcBit r (c.getLsbD (15 - i))) c := by
    simp [crcByte, List.range_succ]
  exact hbits.trans (crcBits_top c (by decide))

/-- The byte-parallel form (R166): the byte is split into the high byte of the register, which only shifts it, and the
index of the table. -/
theorem crcByte_parallel (c : BitVec 16) (x : Byte) :
    crcByte c x = (c <<< 8) ^^^ crcByte 0x0000#16 (c.extractLsb' 8 8 ^^^ x) := by
  have hsplit : c.extractLsb' 8 8 ^^^ (c.extractLsb' 8 8 ^^^ x) = x := by
    rw [← BitVec.xor_assoc, BitVec.xor_self, BitVec.zero_xor]
  calc crcByte c x
      = crcByte (c ^^^ 0x0000#16) (c.extractLsb' 8 8 ^^^ (c.extractLsb' 8 8 ^^^ x)) := by
        rw [hsplit, BitVec.xor_zero]
    _ = (c <<< 8) ^^^ crcByte 0x0000#16 (c.extractLsb' 8 8 ^^^ x) := by rw [crcByte_xor, crcByte_high]

/-! ### A byte sequence (R164, R167) -/

/-- A register fed with its own two bytes is shifted out. -/
theorem crcReg_crcBytes (c : BitVec 16) : crcReg c (crcBytes c) = 0x0000#16 := by
  have hlow : c.extractLsb' 0 8 = (c <<< 8).extractLsb' 8 8 := by
    refine BitVec.eq_of_getLsbD_eq fun i hi => ?_
    have hplace : 8 + i < 16 := by omega
    have hkept : ¬ 8 + i < 8 := by omega
    simp only [BitVec.getLsbD_extractLsb', BitVec.getLsbD_shiftLeft, hplace, hkept, Nat.zero_add,
      Nat.add_sub_cancel_left, decide_true, decide_false, Bool.not_false, Bool.true_and]
  calc crcReg c (crcBytes c)
      = crcByte (crcByte c (c.extractLsb' 8 8)) (c.extractLsb' 0 8) := rfl
    _ = (c <<< 8) <<< 8 := by rw [crcByte_high, hlow, crcByte_high]
    _ = 0x0000#16 := by
      rw [← BitVec.shiftLeft_add]
      exact BitVec.shiftLeft_eq_zero (le_refl 16)

theorem crcReg_append (init : BitVec 16) (l m : List Byte) : crcReg init (l ++ m) = crcReg (crcReg init l) m :=
  List.foldl_append

theorem crcReg_xor (i j : BitVec 16) {a b : List Byte} (h : a.length = b.length) :
    crcReg (i ^^^ j) (List.zipWith (· ^^^ ·) a b) = crcReg i a ^^^ crcReg j b := by
  induction a generalizing i j b with
  | nil =>
    obtain rfl := List.length_eq_zero_iff.mp h.symm
    rfl
  | cons x a ih =>
    obtain ⟨y, b, rfl⟩ := List.exists_cons_of_length_eq_add_one h.symm
    have hstep := crcByte_xor i j x y
    have hrest := ih (crcByte i x) (crcByte j y) (Nat.succ.inj h)
    rw [← hstep] at hrest
    exact hrest

theorem zipWith_xor_zeros (b : List Byte) : List.zipWith (· ^^^ ·) b (List.replicate b.length 0x00#8) = b := by
  induction b with
  | nil => rfl
  | cons y b ih => simp [List.replicate_succ, ih]

/-- From the seed 0 the register is that from `init`, less what `init` alone leaves after as many zero bytes. -/
theorem crcReg_zero (init : BitVec 16) (b : List Byte) :
    crcReg 0x0000#16 b = crcReg init b ^^^ crcReg init (List.replicate b.length 0x00#8) := by
  have h := crcReg_xor init init (a := b) (b := List.replicate b.length 0x00#8) List.length_replicate.symm
  rwa [zipWith_xor_zeros, BitVec.xor_self] at h

/-- The CRC is affine over XOR (R167 c). -/
theorem crcReg_affine (init : BitVec 16) {a b : List Byte} (h : a.length = b.length) :
    crcReg init (List.zipWith (· ^^^ ·) a b) =
      crcReg init a ^^^ crcReg init b ^^^ crcReg init (List.replicate a.length 0x00#8) := by
  calc crcReg init (List.zipWith (· ^^^ ·) a b)
      = crcReg (init ^^^ 0x0000#16) (List.zipWith (· ^^^ ·) a b) := by rw [BitVec.xor_zero]
    _ = crcReg init a ^^^ crcReg 0x0000#16 b := crcReg_xor init 0x0000#16 h
    _ = crcReg init a ^^^ crcReg init b ^^^ crcReg init (List.replicate a.length 0x00#8) := by
      rw [crcReg_zero init b, ← h, BitVec.xor_assoc]

/-! ### CRC16.APPEND at its slot (R165) -/

theorem crcInput_some {s : State} {y d : List Byte} (hsync : s.fb.sync = some y) (hbody : s.fb.body = some d) :
    crcInput s = some (y ++ d) := by
  simp [crcInput, hsync, hbody]

/-- The state after CRC16.APPEND over the sequence `l`, before the slot is completed. -/
def crcAppended (l : List Byte) (s : State) : State :=
  { setCrc (crcReg crcInit l) s with fb := { s.fb with crc := crcBytes (crcReg crcInit l) } }

theorem exec_crc16Append {s : State} {l : List Byte} (hs : s.seq = ⟨.encoding, .e3⟩) (hon : s.appendCrc = true)
    (hl : crcInput s = some l) :
    exec .crc16Append s = .next { crcAppended l s with seq := ⟨.encoding, slotFrom4 s⟩ } := by
  have hcompletes : doCrc16Append s = completeSlot .e3 (crcAppended l s) :=
    slotOp_completes hs hon (by simp [hl, crcAppended, crcRun_eq])
  exact congrArg Host.Outcome.next (hcompletes.trans (completeSlot_e3 (crcAppended l s)))

/-! ### The obligations -/

/-- Settles O23, by `crcByte_parallel`; the printed entries of the table are computed. -/
theorem crcByteParallelForm : Obligations.CrcByteParallelForm := by
  intro s c x henc hon
  refine ⟨_, _, _, _, exec_crc16Byte henc hon rfl, rfl, exec_crc16Byte henc hon rfl, rfl, crcByte_parallel c x, ?_⟩
  refine fun a ha => ⟨_, exec_crc16Byte henc hon rfl, congrArg Result.word ?_⟩
  revert a
  simp [crcByte, crcBit, crcPoly]

/-- Settles O24: the CRC16.BYTEs fold over the register from the seed, as `crcReg` does. -/
theorem crcOfASequence : Obligations.CrcOfASequence := by
  intro s d init l henc hon hl
  refine ⟨crcReg (readInit init) l, exec_crc16Run henc hon hl, ?_, ?_⟩
  · rintro rfl
    rfl
  · rintro x r rfl
    have hrest := runAll_map_foldl (op := .crc16Byte .reg) (st := fun w => crcReturned w s)
      (fun _ _ => exec_crc16Byte_reg henc hon) r (crcByte (readInit init) x)
    exact ⟨_, _, exec_crc16Byte henc hon rfl, hrest, rfl⟩

/-- Settles O25, by the rule of CRC16.APPEND at its slot. -/
theorem crcAppendsTwoBytes : Obligations.CrcAppendsTwoBytes := by
  intro s y d hs hon hsync hbody
  have hinput : crcInput s = some (y ++ d) := crcInput_some hsync hbody
  have henc : s.seq.phase = .encoding := by rw [hs]
  exact ⟨crcReg crcInit (y ++ d), exec_crc16Append hs hon hinput, exec_crc16Run henc hon hinput, rfl⟩

/-- Settles O26: the two CRC bytes are those of the register itself, which they shift out. -/
theorem crcResidue : Obligations.CrcResidue := fun _ m henc hon =>
  ⟨_, _, exec_crc16Run henc hon rfl, exec_crc16Run henc hon rfl,
    (crcReg_append crcInit m (crcBytes (crcReg crcInit m))).trans (crcReg_crcBytes (crcReg crcInit m))⟩

/-- Settles O27, by `crcReg_affine`. -/
theorem crcIsLinear : Obligations.CrcIsLinear := fun _ _ _ henc hon hlen =>
  ⟨_, _, _, _, exec_crc16Run henc hon rfl, exec_crc16Run henc hon rfl, exec_crc16Run henc hon rfl,
    exec_crc16Run henc hon rfl, crcReg_affine crcInit hlen⟩

/-- Settles O21, by the bits of `crcBit_getLsbD`. -/
theorem crcInitAndBit : Obligations.CrcInitAndBit := fun _ henc hon =>
  ⟨exec_crc16Init henc hon, fun _ v b hv =>
    ⟨crcBit v b, exec_crc16Bit henc hon hv, fun _ hi => crcBit_getLsbD v b hi⟩⟩

/-- Settles O22: after the first CRC16.BIT the other seven fold over the register. -/
theorem crcByteIsEightBits : Obligations.CrcByteIsEightBits := fun s _ v x henc hon hv =>
  ⟨crcByte v x, exec_crc16Byte henc hon hv, (runAll_cons (exec_crc16Bit henc hon hv)).trans
    (runAll_map_foldl (op := fun i => .crc16Bit .reg (x.getLsbD i)) (st := fun w => crcReturned w s)
      (fun _ _ => exec_crc16Bit_reg henc hon) [6, 5, 4, 3, 2, 1, 0] _)⟩

end Sys2Proof.Proofs

/-! PROOFS. The whitening engine (R175 to R182): the least period of its register divides 511 = 7 · 73 and is none of
the smaller divisors; WHITEN runs one key over the three spans, and the same key twice cancels. -/

namespace Sys2Proof.Proofs

open Sys2Proof Sys2Proof.Machine Sys2Proof.Spec

/-! ### The sub-operations inside an encode with `whitening` = 1 -/

/-- LFSR holds `w`, which is also the returned value (log 16). -/
def lfsrReturned (w : BitVec 9) (s : State) : State := { setLfsr w s with res := .lfsr w }

/-- Where LFSR already holds a value, writing it marks nothing. -/
theorem setLfsr_of_held {s : State} (hheld : s.held.lfsr = true) (w : BitVec 9) :
    setLfsr w s = { s with lfsr := w } := by
  have hmark : { s.held with lfsr := true } = s.held := by rw [← hheld]
  rw [setLfsr, hmark]

section
variable {s : State} (henc : s.seq.phase = .encoding) (hon : s.whitening = true)
include henc hon

theorem exec_pn9Init : exec .pn9Init s = .next (setLfsr pn9Seed s) :=
  congrArg Host.Outcome.next (subOp_run henc hon rfl)

theorem exec_pn9Step {a : RegArg 9} {r : BitVec 9} (h : readLfsr s a = some r) :
    exec (.pn9Step a) s = .next (lfsrReturned (pn9Step r) s) :=
  congrArg Host.Outcome.next (subOp_run henc hon (by simp [h, lfsrReturned]))

theorem exec_pn9Byte {r : BitVec 9} (h : readLfsr s .reg = some r) :
    exec .pn9Byte s = .next { setLfsr (pn9Next r) s with res := .byte (pn9Key r) } :=
  congrArg Host.Outcome.next (subOp_run henc hon (by simp [h]))

theorem exec_pn9Step_reg {r : BitVec 9} :
    exec (.pn9Step .reg) (lfsrReturned r s) = .next (lfsrReturned (pn9Step r) s) :=
  exec_pn9Step (s := lfsrReturned r s) henc hon rfl

theorem runAll_pn9Steps (n : Nat) (r : BitVec 9) :
    runAll (List.replicate n (.pn9Step .reg)) (lfsrReturned r s) = .next (lfsrReturned (pn9Steps n r) s) := by
  induction n generalizing r with
  | zero => rfl
  | succ n ih => exact (runAll_cons (exec_pn9Step_reg henc hon)).trans (ih (pn9Step r))

end

/-! ### One step (R177) -/

/-- Shifted right, with the feedback in the place that the shift leaves empty. -/
theorem pn9Step_getLsbD (r : BitVec 9) {i : Nat} (hi : i < 9) : (pn9Step r).getLsbD i = pn9BitAt r i := by
  simp only [pn9Step, pn9BitAt, BitVec.getLsbD_or, BitVec.getLsbD_ushiftRight, BitVec.getLsbD_shiftLeft,
    BitVec.getLsbD_setWidth, BitVec.getLsbD_ofBool]
  by_cases htop : i = 8
  · subst htop
    simp
  · have hlow : i < 8 := by omega
    simp [htop, hlow, Nat.add_comm 1 i]

/-- The key byte is LFSR[7:0] (R178). -/
theorem pn9Key_eq (r : BitVec 9) : pn9Key r = r.extractLsb' 0 8 := by
  refine BitVec.eq_of_getLsbD_eq fun i _ => ?_
  simp [pn9Key]

/-! ### The period (R182) -/

theorem pn9Steps_eq_iterate (n : Nat) (r : BitVec 9) : pn9Steps n r = pn9Step^[n] r := by
  induction n generalizing r with
  | zero => rfl
  | succ n ih => exact ih (pn9Step r)

theorem pn9Seed_isPeriodicPt : Function.IsPeriodicPt pn9Step 511 pn9Seed := by decide +kernel

/-- The least period divides 511 = 7 · 73, and none of the smaller divisors is a period. -/
theorem pn9Seed_minimalPeriod : Function.minimalPeriod pn9Step pn9Seed = 511 := by
  have hsmall : ∀ n ∈ [1, 7, 73], ¬ Function.IsPeriodicPt pn9Step n pn9Seed := by decide +kernel
  have hdivisors : Nat.divisors 511 = {1, 7, 73, 511} := by decide +kernel
  have hperiod := Function.isPeriodicPt_minimalPeriod pn9Step pn9Seed
  have hdvd := Nat.mem_divisors.mpr ⟨pn9Seed_isPeriodicPt.minimalPeriod_dvd, by decide⟩
  generalize Function.minimalPeriod pn9Step pn9Seed = m at hperiod hdvd ⊢
  simp only [hdivisors, Finset.mem_insert, Finset.mem_singleton] at hdvd
  rcases hdvd with rfl | rfl | rfl | rfl
  · exact absurd hperiod (hsmall 1 (by simp))
  · exact absurd hperiod (hsmall 7 (by simp))
  · exact absurd hperiod (hsmall 73 (by simp))
  · rfl

/-- The register stays at 0 once it is there, so it would not come back to the seed. -/
theorem pn9Steps_seed_ne_zero (n : Nat) : pn9Steps n pn9Seed ≠ 0#9 := by
  rw [pn9Steps_eq_iterate]
  intro hzero
  have hstays : pn9Step^[510 * n] 0#9 = 0#9 := Function.iterate_fixed rfl (510 * n)
  have hreturns : pn9Step^[510 * n + n] pn9Seed = pn9Seed := by
    have h : 510 * n + n = 511 * n := by omega
    rw [h]
    exact pn9Seed_isPeriodicPt.mul_const n
  rw [Function.iterate_add_apply, hzero, hstays] at hreturns
  exact absurd hreturns (by decide)

/-- The 511 values of one period differ and are not 0, and there are no more than 511 such values. -/
theorem pn9Steps_seed_surjective {r : BitVec 9} (hr : r ≠ 0#9) : ∃ n < 511, pn9Steps n pn9Seed = r := by
  have hinj : Set.InjOn (pn9Step^[·] pn9Seed) (Finset.range 511) := by
    have h := Function.iterate_injOn_Iio_minimalPeriod (f := pn9Step) (x := pn9Seed)
    rwa [pn9Seed_minimalPeriod, ← Finset.coe_range] at h
  have hmaps : Set.MapsTo (pn9Step^[·] pn9Seed) (Finset.range 511) (Finset.univ.erase 0#9 : Finset (BitVec 9)) := by
    intro n _
    simpa [← pn9Steps_eq_iterate] using pn9Steps_seed_ne_zero n
  have hvalues : Fintype.card (BitVec 9) = 512 := FinEnum.card_eq_fintypeCard.symm
  have hcard : (Finset.univ.erase 0#9 : Finset (BitVec 9)).card ≤ (Finset.range 511).card := by
    simp [Finset.card_erase_of_mem, hvalues]
  obtain ⟨n, hn, rfl⟩ := Finset.surjOn_of_injOn_of_card_le _ hmaps hinj hcard
    (Finset.mem_coe.mpr (Finset.mem_erase.mpr ⟨hr, Finset.mem_univ r⟩))
  exact ⟨n, Finset.mem_range.mp hn, pn9Steps_eq_iterate n pn9Seed⟩

/-- Key byte `j` is that of the register after `8 * j` steps. -/
theorem pn9Bytes_getElem? {n j : Nat} (hj : j < n) (r : BitVec 9) :
    (pn9Bytes n r)[j]? = some (pn9Key (pn9Steps (8 * j) r)) := by
  induction j generalizing n r with
  | zero =>
    obtain ⟨n, rfl⟩ := Nat.exists_eq_add_one_of_ne_zero hj.ne'
    rfl
  | succ j ih =>
    obtain ⟨n, rfl⟩ := Nat.exists_eq_add_one_of_ne_zero (Nat.ne_zero_of_lt hj)
    have hnext : pn9Steps (8 * (j + 1)) r = pn9Steps (8 * j) (pn9Next r) := by
      simp only [pn9Next, pn9Steps_eq_iterate, ← Function.iterate_add_apply, Nat.mul_succ]
    rw [hnext, pn9Bytes, List.getElem?_cons_succ]
    exact ih (Nat.lt_of_succ_lt_succ hj) (pn9Next r)

/-- Eight periods of the register are one of the key. -/
theorem pn9Steps_seed_key_period (j : Nat) : pn9Steps (8 * (j + 511)) pn9Seed = pn9Steps (8 * j) pn9Seed := by
  have hreturns : pn9Step^[8 * 511] pn9Seed = pn9Seed := pn9Seed_isPeriodicPt.const_mul 8
  rw [pn9Steps_eq_iterate, pn9Steps_eq_iterate, Nat.mul_add, Function.iterate_add_apply, hreturns]

/-! ### WHITEN at its slot (R180, R181) -/

/-- The same key twice cancels. -/
theorem whitenFrom_whitenFrom (r : BitVec 9) (l : List Byte) : whitenFrom r (whitenFrom r l) = l := by
  rw [whitenFrom, whitenFrom_length, whitenFrom]
  have hlen : l.length ≤ (pn9Bytes l.length r).length := (pn9Bytes_length _ _).ge
  generalize pn9Bytes l.length r = k at hlen
  refine List.ext_getElem (by simpa) fun i _ _ => ?_
  simp

/-- SYNC, BODY and CRC whitened as one continuous sequence, and LFSR where the last key byte leaves it. -/
def whitened (y d : List Byte) (s : State) : State :=
  { setLfsr (pn9After (y.length + d.length + s.fb.crc.length) pn9Seed) s with
    fb := ⟨s.fb.pre, some (whitenFrom pn9Seed y), some (whitenFrom (pn9After y.length pn9Seed) d),
      whitenFrom (pn9After (y.length + d.length) pn9Seed) s.fb.crc⟩ }

theorem exec_whiten {s : State} {y d : List Byte} (hs : s.seq = ⟨.encoding, .e4⟩) (hon : s.whitening = true)
    (hsync : s.fb.sync = some y) (hbody : s.fb.body = some d) :
    exec .whiten s = .next { whitened y d s with seq := ⟨.encoding, .e5⟩ } := by
  have hcompletes : doWhiten s = completeSlot .e4 (whitened y d s) :=
    slotOp_completes hs hon (by simp [hsync, hbody, whitenSpan_eq, whitened, pn9After_add])
  exact congrArg Host.Outcome.next (hcompletes.trans (completeSlot_e4 (whitened y d s)))

/-- The three spans together are the three old ones under one key. -/
theorem whitened_spans (y d c : List Byte) :
    whitenFrom pn9Seed y ++ whitenFrom (pn9After y.length pn9Seed) d ++
        whitenFrom (pn9After (y.length + d.length) pn9Seed) c =
      whitenFrom pn9Seed (y ++ d ++ c) := by
  rw [whitenFrom_append, whitenFrom_append, List.length_append]

/-! ### The obligations -/

/-- Settles O30: the values of the register by its least period, the key bytes by `pn9Bytes_getElem?`. -/
theorem pn9Period : Obligations.Pn9Period := by
  refine ⟨?_, fun n hpos hlt => ?_, fun r => pn9Steps_seed_surjective, pn9Steps_seed_ne_zero, fun n j hj => ?_⟩
  · rw [pn9Steps_eq_iterate]
    exact pn9Seed_isPeriodicPt
  · rw [pn9Steps_eq_iterate]
    exact Function.not_isPeriodicPt_of_pos_of_lt_minimalPeriod hpos.ne' (pn9Seed_minimalPeriod ▸ hlt)
  · rw [pn9Bytes_getElem? hj, pn9Bytes_getElem? (by omega), pn9Steps_seed_key_period]

/-- Settles O31, by the rule of WHITEN at its slot. -/
theorem whitenXorsTheKeySequence : Obligations.WhitenXorsTheKeySequence := by
  intro s y d hs hon hsync hbody
  refine ⟨_, _, _, exec_whiten hs hon hsync hbody, whitenFrom_length _ _, whitenFrom_length _ _,
    whitenFrom_length _ _, ?_⟩
  rw [whitened_spans, whitenFrom, List.length_append, List.length_append]
  rfl

/-- Settles O32: the second WHITEN starts from spans of the same lengths, so it XORs each with the same key bytes. -/
theorem whiteningIsAnInvolution : Obligations.WhiteningIsAnInvolution := by
  intro s y d hs hon hsync hbody
  refine ⟨_, _, exec_whiten hs hon hsync hbody, exec_whiten rfl hon rfl rfl, ?_,
    congrArg some (whitenFrom_length _ _), congrArg some (whitenFrom_length _ _), whitenFrom_length _ _, ?_⟩
  · simp [whitened, whitenFrom_length, whitenFrom_whitenFrom, ← hsync, ← hbody]
  · intro v hv hvon hfb
    refine ⟨_, exec_whiten hv hvon (hfb ▸ hsync) (hfb ▸ hbody), ?_⟩
    simp [whitened, hfb]

/-- Settles O28, by the bits of `pn9Step_getLsbD`. -/
theorem pn9InitAndStep : Obligations.Pn9InitAndStep := fun _ henc hon =>
  ⟨exec_pn9Init henc hon, fun _ r hr => ⟨pn9Step r, exec_pn9Step henc hon hr, fun _ hi => pn9Step_getLsbD r hi⟩⟩

/-- Settles O29: the first PN9.STEP reads LFSR, the other seven go on from what it leaves. -/
theorem pn9ByteTakesTheLowEightBits : Obligations.Pn9ByteTakesTheLowEightBits := by
  intro s henc hon hheld
  have hread : readLfsr s .reg = some s.lfsr := if_pos hheld
  refine ⟨pn9Next s.lfsr, _, ?_,
    (runAll_cons (exec_pn9Step henc hon hread)).trans (runAll_pn9Steps henc hon 7 (pn9Step s.lfsr)), rfl⟩
  rw [exec_pn9Byte henc hon hread, setLfsr_of_held hheld, pn9Key_eq]

end Sys2Proof.Proofs

/-! PROOFS. The Manchester line coder (R190 to R194): a coded sequence is read off pair by pair, and MANCH at its slot
codes the spans into the line. -/

namespace Sys2Proof.Proofs

open Sys2Proof Sys2Proof.Machine Sys2Proof.Spec

/-! ### A coded sequence (R191, R193) -/

theorem manchBit_eq (b : Bit) : manchBit b = [b, !b] := by cases b <;> rfl

theorem manchBits_cons (b : Bit) (l : List Bit) : manchBits (b :: l) = b :: (!b) :: manchBits l := by
  rw [manchBits, List.flatMap_cons, manchBit_eq]
  rfl

theorem manchBits_append (l m : List Bit) : manchBits (l ++ m) = manchBits l ++ manchBits m := List.flatMap_append

/-- Bit `j` is coded by the pair at `2 * j`. -/
theorem manchBits_getElem? {l : List Bit} {j : Nat} {b : Bit} (h : l[j]? = some b) :
    (manchBits l)[2 * j]? = some b ∧ (manchBits l)[2 * j + 1]? = some !b := by
  induction l generalizing j with
  | nil => cases h
  | cons x l ih =>
    rw [manchBits_cons]
    cases j with
    | zero =>
      obtain rfl : x = b := Option.some.inj h
      exact ⟨rfl, rfl⟩
    | succ j => exact ih (j := j) h

/-! ### MANCH at its slot (R192) -/

/-- The PRE span on the line. -/
def preambleLine (s : State) (p : List Bit) : List Bit := if s.manchPreamble then manchBits p else p

theorem exec_manch {s : State} {p y d c : List Bit} (hs : s.seq = ⟨.encoding, .e7⟩) (hon : s.manchester = true)
    (hpre : s.bb.pre = some p) (hsync : s.bb.sync = some y) (hbody : s.bb.body = some d) (hcrc : s.bb.crc = some c) :
    exec .manch s = .next { s with
      bb := { s.bb with line := some (preambleLine s p ++ manchBits (y ++ d ++ c)) }, seq := ⟨.encoding, .e8⟩ } := by
  have hcompletes : doManch s = completeSlot .e7 { s with
      bb := { s.bb with line := some (preambleLine s p ++ manchBits (y ++ d ++ c)) } } :=
    slotOp_completes hs hon (by simp [hpre, hsync, hbody, hcrc, preambleLine, manchBits_append])
  exact congrArg Host.Outcome.next (hcompletes.trans (completeSlot_e7 _))

/-! ### The obligation -/

/-- Settles O35: the three coded spans are one coded sequence, and the preamble is another where it is coded. -/
theorem manchesterCodesTheLine : Obligations.ManchesterCodesTheLine := by
  intro s p y d c hs hon hpre hsync hbody hcrc
  refine ⟨preambleLine s p, manchBits (y ++ d ++ c), exec_manch hs hon hpre hsync hbody hcrc, fun hplain => ?_,
    fun hcoded => ?_, manchBits_length _, fun _ _ => manchBits_getElem?⟩
  · rw [preambleLine, hplain]
    rfl
  · rw [preambleLine, if_pos hcoded]
    exact ⟨manchBits_length p, fun _ _ => manchBits_getElem?⟩

end Sys2Proof.Proofs

/-! PROOFS. The bit-order serializer (R200 to R203): each bit of a serialised span is read off its byte, and SER at its
slot writes the four spans and does what the skipped slots leave to it. -/

namespace Sys2Proof.Proofs

open Sys2Proof Sys2Proof.Machine Sys2Proof.Spec

/-! ### A serialised byte and a serialised span (R200, R202) -/

theorem serByte_length (x : Byte) (m : Bit) : (serByte x m).length = 8 := by cases m <;> rfl

/-- The bits in transmit order: from bit 7 down for `m` = 1, from bit 0 up for `m` = 0. -/
theorem serByte_getElem? (x : Byte) (m : Bit) {t : Nat} (ht : t < 8) :
    (serByte x m)[t]? = some (x.getLsbD (if m then 7 - t else t)) := by
  cases m <;> interval_cases t <;> rfl

theorem serSpan_cons (m : Bit) (x : Byte) (l : List Byte) : serSpan m (x :: l) = serByte x m ++ serSpan m l :=
  List.flatMap_cons

/-- Byte `j` of the span is sent in the eight places from `8 * j`. -/
theorem serSpan_getElem? (m : Bit) (l : List Byte) (j t : Nat) (ht : t < 8) :
    (serSpan m l)[8 * j + t]? = (l[j]?).map fun x => x.getLsbD (if m then 7 - t else t) := by
  induction l generalizing j with
  | nil => rfl
  | cons x l ih =>
    have hlen := serByte_length x m
    rw [serSpan_cons]
    cases j with
    | zero =>
      rw [List.getElem?_append_left (by omega), Nat.mul_zero, Nat.zero_add]
      exact serByte_getElem? x m ht
    | succ j =>
      have hrest : 8 * (j + 1) + t - (serByte x m).length = 8 * j + t := by omega
      rw [List.getElem?_append_right (by omega), hrest]
      exact ih j

/-! ### The order of the body (R201) -/

theorem bodyOrder_eq (s : State) : bodyOrder s.cfg.cr0 = (s.msbFirst && !s.ax25) := by
  rw [bodyOrder, State.msbFirst, State.ax25]
  cases flagAx25 s.cfg.cr0 <;> simp

/-! ### SER at its slot (R202, R224, R225; log 19) -/

theorem completeSlot_e5 (s : State) :
    completeSlot .e5 s = { s with
      bb := { s.bb with line := if s.ax25 || s.manchester then s.bb.line else plainLine s.bb },
      seq := ⟨.encoding, slotFrom6 s⟩ } := by
  cases hmode : s.ax25 with
  | true => rw [slotFrom6, hmode]; exact completeSlot_prevSlot_runs (k := .e6) hmode
  | false =>
    rw [slotFrom6, hmode]
    exact (completeSlot_prevSlot_skips (k := .e6) hmode).trans (completeSlot_e6 s)

/-- The bit buffer after SER over the spans `p`, `y`, `d`, before the slot is completed. -/
def serialised (p y d : List Byte) (s : State) : State :=
  { s with bb := { s.bb with
    pre := some (serSpan s.msbFirst p), sync := some (serSpan s.msbFirst y),
    body := some (serSpan (bodyOrder s.cfg.cr0) d), crc := some (serSpan s.msbFirst s.fb.crc) } }

theorem exec_ser {s : State} {p y d : List Byte} (hs : s.seq = ⟨.encoding, .e5⟩) (hpre : s.fb.pre = some p)
    (hsync : s.fb.sync = some y) (hbody : s.fb.body = some d) :
    exec .ser s = .next (completeSlot .e5 (serialised p y d s)) :=
  congrArg Host.Outcome.next (slotOp_completes hs rfl (by simp [hpre, hsync, hbody, serialised]))

/-! ### The obligations -/

/-- Settles O34: each span bit by bit by `serSpan_getElem?`; `completeSlot_e5` leaves the line or concatenates it. -/
theorem serialiseTheSpans : Obligations.SerialiseTheSpans := by
  intro s p y d hs hpre hsync hbody
  refine ⟨_, _, _, _, (exec_ser hs hpre hsync hbody).trans (congrArg _ (completeSlot_e5 _)), serSpan_length _ _,
    serSpan_length _ _, serSpan_length _ _, serSpan_length _ _, serSpan_getElem? _ _, serSpan_getElem? _ _, ?_,
    serSpan_getElem? _ _⟩
  rw [bodyOrder_eq]
  exact serSpan_getElem? _ d

/-- Settles O33: each operation is a sub-operation inside an encode, which returns the value of its rule. -/
theorem bitOperationResults : Obligations.BitOperationResults := fun _ henc =>
  ⟨fun x m => ⟨serByte x m, congrArg Host.Outcome.next (subOp_run henc rfl rfl), serByte_length x m,
      fun _ ht => serByte_getElem? x m ht⟩,
    fun b hon => manchBit_eq b ▸ congrArg Host.Outcome.next (subOp_run henc hon rfl),
    fun _ => congrArg Host.Outcome.next (subOp_run henc rfl rfl)⟩

end Sys2Proof.Proofs

/-! PROOFS. The NRZ sample mapper (R210 to R213): NRZ at its slot maps the line to samples and completes E8. -/

namespace Sys2Proof.Proofs

open Sys2Proof Sys2Proof.Machine Sys2Proof.Spec

/-- R211, with the two polarities written out. -/
theorem nrzBit_eq : nrzBit = fun b => if b then .pos else .neg := rfl

/-- SETTLE runs in every mode, so E9 follows E8 (R225). -/
theorem completeSlot_e8 (s : State) : completeSlot .e8 s = { s with seq := ⟨.encoding, .e9⟩ } :=
  completeSlot_prevSlot_runs (k := .e9) rfl

theorem exec_nrz {s : State} {l : List Bit} (hs : s.seq = ⟨.encoding, .e8⟩) (hline : s.bb.line = some l) :
    exec .nrz s = .next { s with sb := { s.sb with s := some (l.map nrzBit) }, seq := ⟨.encoding, .e9⟩ } := by
  have hcompletes : doNrz s = completeSlot .e8 { s with sb := { s.sb with s := some (l.map nrzBit) } } :=
    slotOp_completes hs rfl (by simp [hline])
  exact congrArg Host.Outcome.next (hcompletes.trans (completeSlot_e8 _))

/-! ### The obligation -/

/-- Settles O36: the rule of NRZ at its slot, with the samples of R211 written out. -/
theorem nrzMapsTheLine : Obligations.NrzMapsTheLine := by
  intro s l hs hline
  rw [exec_nrz hs hline, nrzBit_eq]

end Sys2Proof.Proofs

/-! PROOFS. The settling appender (R215): the two sides of the length limit, and SETTLE at its slot on each. -/

namespace Sys2Proof.Proofs

open Sys2Proof Sys2Proof.Machine Sys2Proof.Spec

/-! ### The samples appended (R215, R246) -/

section
variable {n : BitVec 32} {l : List Sample}

theorem settle_of_fits (h : l.length + n.toNat < lenLimit) : settle n l = some (l ++ List.replicate n.toNat .zero) :=
  if_pos h

theorem settle_of_overflow (h : lenLimit ≤ l.length + n.toNat) : settle n l = none :=
  if_neg (Nat.not_lt.mpr h)

end

/-! ### SETTLE at its slot (R215, R225, R248) -/

/-- TAG and HANDOFF run in every mode, so E10 follows E9 (R225). -/
theorem completeSlot_e9 (s : State) : completeSlot .e9 s = { s with seq := ⟨.encoding, .e10⟩ } :=
  completeSlot_prevSlot_runs (k := .e10) rfl

section
variable {s : State} {l : List Sample}

theorem exec_settle_of_fits (hs : s.seq = ⟨.encoding, .e9⟩) (hsb : s.sb.s = some l)
    (hfit : l.length + s.cfg.cr7.toNat < lenLimit) :
    exec .settle s = .next { s with
      sb := { s.sb with s := some (l ++ List.replicate s.cfg.cr7.toNat .zero) }, seq := ⟨.encoding, .e10⟩ } := by
  have hcompletes : doSettle s = completeSlot .e9 { s with
      sb := { s.sb with s := some (l ++ List.replicate s.cfg.cr7.toNat .zero) } } :=
    slotOp_completes hs rfl (by simp [hsb, settle_of_fits hfit])
  exact congrArg Host.Outcome.next (hcompletes.trans (completeSlot_e9 _))

/-- The INTERNAL error carries the number of the slot it is raised in (R245). -/
theorem exec_settle_of_overflow (hs : s.seq = ⟨.encoding, .e9⟩) (hsb : s.sb.s = some l)
    (hover : lenLimit ≤ l.length + s.cfg.cr7.toNat) :
    exec .settle s = .next (raiseEncodingError causeInternal 9 s) := by
  have hraises : doSettle s = raiseInternal s := slotOp_raise hs (by simp [hsb, settle_of_overflow hover])
  have hinfo : raiseInternal s = raiseEncodingError causeInternal 9 s := by rw [raiseInternal, hs]; rfl
  exact congrArg Host.Outcome.next (hraises.trans hinfo)

end

/-! ### The obligation -/

/-- Settles O37: below the limit the rule of SETTLE at its slot, from the limit on the error it raises there. -/
theorem settleAppendsZeros : Obligations.SettleAppendsZeros := fun s _ hs hsb =>
  ⟨exec_settle_of_fits hs hsb, fun hover =>
    ⟨_, exec_settle_of_overflow hs hsb hover, raiseEncodingError_from causeInternal 9 s⟩⟩

end Sys2Proof.Proofs

/-! PROOFS. The host's transactions (R227 to R232): which are taken, what they do, and how a step picks what it runs. -/

namespace Sys2Proof.Proofs

open Sys2Proof Sys2Proof.Machine Sys2Proof.Spec

/-! ### Requests that are not taken (R229, R231, R232; logs 12, 13) -/

theorem subOp_outside {on : Bool} {f : State → Option State} {s : State} (hs : s.seq.phase ≠ .encoding) :
    subOp on f s = s := by
  simp [subOp, State.encoding, hs]

theorem execPduAccept_outside {s : State} (p : List Byte) (hs : s.seq.phase ≠ .idle) :
    execPduAccept p s = .next s := by
  simp [execPduAccept, hs]

theorem execSamplePop_nil {s : State} (h : s.outq = []) : execSamplePop s = .next s := by
  simp [execSamplePop, h]

theorem exec_encode {s : State} (hs : s.seq = ⟨.encoding, .e1⟩) : exec .encode s = .next (runPipeline s) :=
  congrArg Host.Outcome.next (if_pos hs)

theorem exec_encode_elsewhere {s : State} (hs : s.seq ≠ ⟨.encoding, .e1⟩) : exec .encode s = .next s :=
  congrArg Host.Outcome.next (if_neg hs)

/-- In phase CFGERR nothing but RESET, and a pop of a sample that is there, does anything (R247). -/
theorem exec_in_cfgerr {s : State} {i : Instr} (hs : s.seq.phase = .cfgerr) (hq : s.outq = []) (hi : i ≠ .reset) :
    exec i s = .next s := by
  have henc : s.seq.phase ≠ .encoding := by simp [hs]
  cases i with
  | reset => exact absurd rfl hi
  | cfgLoad => exact execCfgLoad_outside (by simp [hs])
  | pduAccept p => exact execPduAccept_outside p (by simp [hs])
  | samplePop => exact execSamplePop_nil hq
  | encode => exact exec_encode_elsewhere fun hat => henc (by rw [hat])
  | frmPre | frmSync | ax25Encap | frmBody | crc16Append | whiten | ser | ax25Stuff | manch | nrz | settle | tag
  | handoff => exact congrArg Host.Outcome.next (slotOp_outside henc)
  | ax25Addr | ax25Hdr | fcsInit | fcsBit | fcsByte | ax25Fcs | crc16Init | crc16Bit | crc16Byte | crc16Run | pn9Init
  | pn9Step | pn9Byte | serByte | stuffBit | manchBit | nrzBit =>
    exact congrArg Host.Outcome.next (subOp_outside henc)

/-- Settles O4: each request on its own, and in phase CFGERR every operation in turn. -/
theorem disabledTransactionsChangeNothing : Obligations.DisabledTransactionsChangeNothing := fun _ p =>
  ⟨execCfgLoad_outside, execPduAccept_outside p, execSamplePop_nil, fun hs hq _ => exec_in_cfgerr hs hq⟩

/-! ### Push and pop (R228, R231, R245) -/

theorem execPduAccept_too_large {s : State} {p : List Byte} {m : Nat} (hs : s.seq.phase = .idle)
    (hm : s.par.maxPdu = some m) (hlt : m < p.length) :
    exec (.pduAccept p) s = .next (raiseEncodingError causePduTooLarge 0 s) := by
  show execPduAccept p s = _
  simp [execPduAccept, hs, exceeds, hm, hlt]

theorem execPduAccept_empty {s : State} (hs : s.seq.phase = .idle) (hforbid : s.par.forbidEmptyPdu = true) :
    exec (.pduAccept []) s = .next (raiseEncodingError causePduEmpty 0 s) := by
  have hsize : exceeds ([] : List Byte).length s.par.maxPdu = false := exceeds_eq_false fun m _ => Nat.zero_le m
  show execPduAccept [] s = _
  rw [execPduAccept, if_pos hs, hsize, if_neg Bool.false_ne_true, if_pos ⟨rfl, hforbid⟩]

/-- Settles O5: the two refusals of R245 in the order of R249, and the PDU that passes both. -/
theorem pduAcceptChecksAndTakes : Obligations.PduAcceptChecksAndTakes := by
  refine fun s p hs => ⟨fun m hm hlt => ?_, fun hmax => ⟨?_, fun hempty => ?_⟩⟩
  · exact ⟨_, execPduAccept_too_large hs hm hlt, raiseEncodingError_from causePduTooLarge 0 s⟩
  · rintro rfl hforbid
    exact ⟨_, execPduAccept_empty hs hforbid, raiseEncodingError_from causePduEmpty 0 s⟩
  · exact execPduAccept_accepted hs hmax hempty

/-- Settles O6. -/
theorem popDeliversTheHead : Obligations.PopDeliversTheHead := by
  intro s x r h
  show execSamplePop s = _
  simp [execSamplePop, h]

/-! ### Construction (R227, R242 to R244) -/

theorem callCharOk_of_range {c : Byte}
    (h : (0x41 ≤ c.toNat ∧ c.toNat ≤ 0x5A) ∨ (0x30 ≤ c.toNat ∧ c.toNat ≤ 0x39)) : callCharOk c = true := by
  simpa [callCharOk, BitVec.le_def] using h

theorem checkCallsign_of_valid {l : List Byte} (w : Byte) (h : callsignValid l) : checkCallsign w l = none := by
  obtain ⟨hlen, hne, hchars⟩ := h
  have hall : (stripPad l).all callCharOk = true := List.all_eq_true.mpr fun c hc => callCharOk_of_range (hchars c hc)
  rw [checkCallsign, if_neg (Nat.not_lt.mpr hlen), if_neg hne, if_pos hall]

theorem checkSsid_of_le {n : Byte} (w : Byte) (h : n.toNat ≤ 15) : checkSsid w n = none :=
  if_neg (by simpa [BitVec.lt_def] using h)

theorem exceeds_of_le {n : Nat} {o : Option Nat} (h : ∀ m, o = some m → n ≤ m) : ¬ exceeds n o = true := by
  simp [exceeds_eq_false h]

/-- A valid configuration passes every check of R249. -/
theorem checkCfg_of_valid {p : Params} {v : CfgValues} (h : cfgValid p v) : checkCfg p v = none := by
  obtain ⟨hflags, hpre, hsync, hempty, haddr⟩ := h
  have hnonempty : ¬ (flagAx25 v.flags && v.sync.isEmpty) = true := by
    simpa [flagAx25] using hempty
  rw [checkCfg, if_neg (not_not.mpr hflags), if_neg (exceeds_of_le hpre), if_neg (exceeds_of_le hsync),
    if_neg hnonempty]
  split
  · rename_i hchecked
    obtain ⟨a, ha, hdest, hdssid, hsrc, hsssid⟩ := haddr (by simpa [addrChecked, flagAx25] using hchecked)
    simp [ha, checkAddr, checkCallsign_of_valid _ hdest, checkSsid_of_le _ hdssid, checkCallsign_of_valid _ hsrc,
      checkSsid_of_le _ hsssid]
  · rfl

theorem execCfgLoad_of_valid {s : State} (hs : s.seq.phase = .reset) (h : cfgValid s.par s.cfgPort) :
    exec .cfgLoad s = .next (loaded s) := by
  show execCfgLoad s = _
  simp [execCfgLoad, hs, checkCfg_of_valid h, loaded]

theorem loadCfg_cr7 (c : Bool) (v : CfgValues) (g : CfgRegs) : (loadCfg c v g).cr7 = v.settling := by
  unfold loadCfg
  split <;> rfl

/-- Unchecked addresses are not stored (log 11). -/
theorem loadCfg_unchecked (v : CfgValues) (g : CfgRegs) :
    (loadCfg false v g).cr3 = g.cr3 ∧ (loadCfg false v g).cr4 = g.cr4 ∧ (loadCfg false v g).cr5 = g.cr5 ∧
      (loadCfg false v g).cr6 = g.cr6 := ⟨rfl, rfl, rfl, rfl⟩

theorem loadCfg_checked {v : CfgValues} {a : AddrGroup} (ha : v.addr = some a) (hdest : a.dest.length ≤ 6)
    (hsrc : a.src.length ≤ 6) (g : CfgRegs) :
    (loadCfg true v g).cr3.toList = padded a.dest ∧ (loadCfg true v g).cr4 = a.dssid ∧
      (loadCfg true v g).cr5.toList = padded a.src ∧ (loadCfg true v g).cr6 = a.sssid := by
  simp [loadCfg, ha, storeCallsign_toList hdest, storeCallsign_toList hsrc]

/-- Settles O2: a valid configuration passes the checks, and `loaded` holds what `loadCfg` stores of it. -/
theorem constructionLoadsTheConfiguration : Obligations.ConstructionLoadsTheConfiguration := by
  intro s hs hvalid
  obtain ⟨h0, h1, h2⟩ := loadCfg_fields (addrChecked s.par s.cfgPort) s.cfgPort s.cfg
  refine ⟨loaded s, execCfgLoad_of_valid hs hvalid, rfl, h0, h1, h2, loadCfg_cr7 _ _ _, fun a ha hchecked => ?_,
    fun hunchecked => ?_⟩
  · obtain ⟨-, -, -, -, haddr⟩ := hvalid
    obtain ⟨b, hb, ⟨hdest, -⟩, -, ⟨hsrc, -⟩, -⟩ := haddr (by simpa using hchecked)
    obtain rfl : a = b := Option.some.inj (ha.symm.trans hb)
    have hon : addrChecked s.par s.cfgPort = true := hchecked
    simp only [loaded, hon]
    exact loadCfg_checked ha hdest hsrc s.cfg
  · have hoff : addrChecked s.par s.cfgPort = false := hunchecked
    simp only [loaded, hoff]
    exact loadCfg_unchecked s.cfgPort s.cfg

/-! ### One step (R224, R229, R270) -/

theorem coreStep_run {s : State} {i : Instr} (h : coreMove s = .run i) : coreStep s = exec i s := by
  rw [coreStep, h]

theorem coreStep_idle {s : State} (h : coreMove s = .idle) : coreStep s = .next s := by
  rw [coreStep, h]

theorem hostTaken_eq {s : State} {m : HostMove} {r : List HostMove} (h : s.host = m :: r) :
    hostTaken s = { s with host := r } := by
  rw [hostTaken, h]
  rfl

/-- Settles O46: by the three sources of a step, a word, the host's next move, and the core's own operation. -/
theorem stepRunsTheDecodedOperation : Obligations.StepRunsTheDecodedOperation := by
  refine fun s => ⟨fun l i hl hi => ?_, fun hw hh => ⟨fun i hi => ?_, fun hidle => ?_⟩, fun r hw => ?_⟩
  · rw [step_word hl, wordStep, hi]
    rfl
  · rw [step_nil hw hh, coreStep_run hi]
  · rw [step_nil hw hh, coreStep_idle hidle]
  · have taken {m : HostMove} (hm : s.host = m :: r) : step s = hostMove m { s with host := r } := by
      rw [step_host hw hm, hostTaken_eq hm]
    refine ⟨fun h => ⟨fun i hi => ?_, fun hidle => ?_⟩, taken, fun p => taken, taken, fun v => taken, taken⟩
    · exact (taken h).trans (coreStep_run (s := { s with host := r }) hi)
    · exact (taken h).trans (coreStep_idle (s := { s with host := r }) hidle)

/-- Settles O47: the status shown is that of the state, whose `ready` and `cfg_err` are the phase. -/
theorem statusShowsTheStatusRegisters : Obligations.StatusShowsTheStatusRegisters := by
  intro s r hw hh
  refine ⟨s.status, ?_, beq_iff_eq, beq_iff_eq, rfl, rfl⟩
  rw [step_host hw hh, hostTaken_eq hh]
  rfl

/-- Settles O49, phase by phase and slot by slot. -/
theorem sequencerPicksTheSlotsOperation : Obligations.SequencerPicksTheSlotsOperation := by
  intro s
  refine ⟨fun h => by simp [coreMove, h], ?idle, ?e1, ?e2, fun h => by simp [coreMove, h],
    fun h => by simp [coreMove, h], fun h => by simp [coreMove, h], fun h => by simp [coreMove, h],
    fun h => by simp [coreMove, h], fun h => by simp [coreMove, h], fun h => by simp [coreMove, h], ?e10⟩
  case idle => rintro (h | h) <;> simp [coreMove, h]
  case e1 =>
    intro h
    cases hpre : s.fb.pre <;> simp [coreMove, h, hpre]
  case e2 =>
    intro h
    cases hmode : s.ax25 <;> cases hencap : s.encap <;> simp [coreMove, h, hmode, hencap]
  case e10 =>
    intro h
    cases hdesc : s.sb.desc <;> simp [coreMove, h, hdesc]

/-! ### The phase machine (R226, R271) -/

section
variable {i : Instr} {s t : State}

theorem next_unique {u : State} (h : exec i s = .next t) (h' : exec i s = .next u) : t = u :=
  Host.Outcome.next.inj (h.symm.trans h')

theorem Within.not_idle (h : Within s t) (hs : s.seq.phase = .encoding) : t.seq.phase ≠ .idle := by
  rw [h.phase, hs]
  decide

theorem ends_of_acts {v : State} (h : exec i s = .next t) (hs : s.seq.phase = .encoding) (ht : t.seq.phase = .idle)
    (hv : exec i s = .next v) (hacts : Within s v ∨ Ends s v) : ∃ u, Within s u ∧ Ends u t := by
  obtain rfl : t = v := next_unique h hv
  rcases hacts with hwithin | hends
  · exact absurd ht (hwithin.not_idle hs)
  · exact ⟨s, .refl s, hends⟩

/-- Where an operation leads from ENCODING to IDLE, the encode has ended: after some work, by INTERNAL or HANDOFF. -/
theorem encode_ends (h : exec i s = .next t) (hs : s.seq.phase = .encoding) (ht : t.seq.phase = .idle) :
    ∃ u, Within s u ∧ Ends u t := by
  have kept (ht' : t = s) : ∃ u, Within s u ∧ Ends u t := absurd ht (ht' ▸ (Within.refl s).not_idle hs)
  cases i with
  | reset => cases h; cases ht
  | cfgLoad => exact kept (next_unique h (execCfgLoad_outside (by simp [hs])))
  | pduAccept p => exact kept (next_unique h (execPduAccept_outside p (by simp [hs])))
  | samplePop =>
    obtain rfl : t = popped s := next_unique h (execSamplePop_eq s)
    exact absurd (hs.symm.trans ht) (by decide)
  | encode =>
    by_cases hat : s.seq = ⟨.encoding, .e1⟩
    · have hrun : t = runPipeline s := next_unique h (exec_encode hat)
      obtain ⟨u, hsu, hu | hends⟩ := runPipeline_cases s
      · exact absurd ht (hrun.trans hu ▸ hsu.not_idle hs)
      · exact ⟨u, hsu, hrun ▸ hends⟩
    · exact kept (next_unique h (exec_encode_elsewhere hat))
  | frmPre | frmSync | ax25Encap | frmBody | crc16Append | whiten | ser | ax25Stuff | manch | nrz | settle | tag
  | handoff => exact ends_of_acts h hs ht rfl ((pipeline_isStage _ (by simp [pipeline])).acts s)
  | fcsInit | crc16Init | pn9Init | serByte | manchBit | nrzBit =>
    refine ends_of_acts h hs ht rfl (WorksOrRaises.acts (subOp_works ?_))
    exact .some (.of_kept rfl rfl rfl)
  | ax25Addr | fcsBit | fcsByte | ax25Fcs | crc16Bit | crc16Byte | crc16Run | pn9Step | pn9Byte | stuffBit =>
    refine ends_of_acts h hs ht rfl (WorksOrRaises.acts (subOp_works ?_))
    exact .bind fun _ => .some (.of_kept rfl rfl rfl)
  | ax25Hdr =>
    refine ends_of_acts h hs ht rfl (WorksOrRaises.acts (subOp_works ?_))
    exact .bind fun _ => .bind fun _ => .some (.of_kept rfl rfl rfl)

theorem Ends.pushAns (h : Ends s t) : t.pushAns = .ok ∨ t.pushAns = .error 2 3 ∧ errEnc t.err = true := by
  cases h with
  | internal => exact .inr ⟨rfl, (raiseEncodingError_from _ _ s).1⟩
  | handoff => exact .inl rfl

/-- Of all effects only a hand-over ends an encode with the push answered OK. -/
theorem Effect.handoff_of_ok (h : Effect s i t) (hs : s.seq.phase = .encoding) (ht : t.seq.phase = .idle)
    (hok : t.pushAns = .ok) : i = .handoff ∨ i = .encode := by
  cases h with
  | handoff hi => exact hi
  | work _ hst => exact absurd ht (hst.not_idle hs)
  | encodingError => cases hok
  | reset => cases ht
  | pop => exact absurd (hs.symm.trans ht) (by decide)
  | cfgError hphase | load hphase | accept hphase => exact absurd (hs.symm.trans hphase) (by decide)

/-- What each effect does to the phase (R226). -/
theorem Effect.phase_cases (h : Effect s i t) :
    t.seq.phase = s.seq.phase ∨ (i = .reset ∧ t.seq.phase = .reset) ∨
      (i = .cfgLoad ∧ s.seq.phase = .reset ∧ (t.seq.phase = .cfgerr ∨ t.seq.phase = .idle)) ∨
      ((∃ p, i = .pduAccept p) ∧ s.seq.phase = .idle ∧ t.seq = ⟨.encoding, .e1⟩) ∨
      (s.seq.phase = .encoding ∧ t.seq.phase = .idle) := by
  cases h with
  | work _ hst => exact .inl hst.phase
  | pop => exact .inl rfl
  | reset => exact .inr (.inl ⟨rfl, rfl⟩)
  | cfgError hphase => exact .inr (.inr (.inl ⟨rfl, hphase, .inl rfl⟩))
  | load hphase => exact .inr (.inr (.inl ⟨rfl, hphase, .inr rfl⟩))
  | accept hphase => exact .inr (.inr (.inr (.inl ⟨⟨_, rfl⟩, hphase, rfl⟩)))
  | handoff _ hsu hphase => exact .inr (.inr (.inr (.inr ⟨hsu.phase ▸ hphase, rfl⟩)))
  | encodingError _ hsu _ hphase =>
    rw [State.configured, hsu.phase, Bool.or_eq_true, beq_iff_eq, beq_iff_eq] at hphase
    rcases hphase with hidle | henc
    · exact .inl hidle.symm
    · exact .inr (.inr (.inr (.inr ⟨henc, rfl⟩)))

theorem phaseMayGo_self (a : Phase) : phaseMayGo a a = true := by cases a <;> rfl

theorem phaseMayGo_reset (a : Phase) : phaseMayGo a .reset = true := by cases a <;> rfl

theorem Effect.phaseMayGo (h : Effect s i t) : phaseMayGo s.seq.phase t.seq.phase = true := by
  rcases h.phase_cases with ht | ⟨-, ht⟩ | ⟨-, hs, ht | ht⟩ | ⟨-, hs, ht⟩ | ⟨hs, ht⟩
  · rw [ht]
    exact phaseMayGo_self _
  · rw [ht]
    exact phaseMayGo_reset _
  all_goals
    rw [hs, ht]
    rfl

end

/-- Settles O57: `Effect.phase_cases` for the transitions and their events, `encode_ends` for the answer to the push. -/
theorem phaseTransitions : Obligations.PhaseTransitions := by
  intro i s t h
  have heffect := effect_of_exec h
  refine ⟨heffect.phaseMayGo, ?reset, ?toReset, ?fromReset, ?accepts, ?ends, ?pops⟩
  case reset =>
    rintro rfl
    cases h
    rfl
  case toReset =>
    intro ht
    rcases heffect.phase_cases with hst | ⟨hi, -⟩ | ⟨-, hs, -⟩ | ⟨-, -, hst⟩ | ⟨-, hst⟩
    · exact .inr (hst.symm.trans ht)
    · exact .inl hi
    · exact .inr hs
    · simp [hst] at ht
    · simp [hst] at ht
  case fromReset =>
    intro hs ht
    rcases heffect.phase_cases with hst | ⟨-, hst⟩ | ⟨hi, -⟩ | ⟨-, hidle, -⟩ | ⟨henc, -⟩
    · exact absurd (hst.trans hs) ht
    · exact absurd hst ht
    · exact hi
    · simp [hs] at hidle
    · simp [hs] at henc
  case accepts =>
    intro hs ht
    rcases heffect.phase_cases with hst | ⟨-, hst⟩ | ⟨-, hreset, -⟩ | ⟨hi, -, hst⟩ | ⟨henc, -⟩
    · simp [hst, hs] at ht
    · simp [hst] at ht
    · simp [hs] at hreset
    · exact ⟨by rw [hst], hi⟩
    · simp [hs] at henc
  case ends =>
    intro hs ht
    obtain ⟨u, -, hends⟩ := encode_ends h hs ht
    exact hends.pushAns.imp_left fun hok => ⟨hok, heffect.handoff_of_ok hs ht hok⟩
  case pops =>
    rintro rfl
    obtain rfl : t = popped s := next_unique h (execSamplePop_eq s)
    rfl

end Sys2Proof.Proofs

/-! PROOFS. The burst tagger and the hand-off in slot E10 (R220, R223, R230), and the length of the burst (R222). -/

namespace Sys2Proof.Proofs

open Sys2Proof Sys2Proof.Machine Sys2Proof.Spec

/-! ### The tagged samples (R220, R221) -/

theorem tagged_sample (o : Option Tag) (l : List Sample) : (tagged o l).map TaggedSample.sample = l := by
  cases l <;> simp [tagged, Function.comp_def]

/-- The tag stands on the first sample only. -/
theorem tagged_tags (o : Option Tag) (l : List Sample) :
    (tagged o l).map TaggedSample.tag = l.mapIdx fun j _ => if j = 0 then o else none := by
  cases l with
  | nil => rfl
  | cons x l =>
    refine List.ext_getElem (by simp [tagged]) fun j hj hj' => ?_
    cases j <;> simp [tagged]

/-! ### TAG and HANDOFF at their slot -/

section
variable {s : State} {l : List Sample}

/-- INTERNAL carries the number of the slot that SEQ stands at (R245). -/
theorem raiseInternal_at {q : Seq} (hs : s.seq = q) :
    raiseInternal s = raiseEncodingError causeInternal (BitVec.ofNat 8 (slotNum q.slot)) s := by
  rw [raiseInternal, hs]

theorem burstDesc_of_lt (cnt : BitVec 64) (h : l.length < lenLimit) :
    burstDesc cnt l = some ⟨BitVec.ofNat 32 l.length, cnt,
      if l = [] then none else some ⟨true, BitVec.ofNat 32 l.length, cnt⟩⟩ := by
  simp [burstDesc, h]

theorem doTag_raises (hs : s.seq = ⟨.encoding, .e10⟩) (hl : s.sb.s = some l) (hlong : lenLimit ≤ l.length) :
    doTag s = raiseInternal s :=
  slotOp_raise hs (by simp [hl, burstDesc, Nat.not_lt.mpr hlong])

end

/-- Settles O38: below the limit `burstDesc` describes the burst, from the limit on TAG raises INTERNAL in slot E10. -/
theorem tagDescribesTheBurst : Obligations.TagDescribesTheBurst := by
  refine fun s l hs hl => ⟨fun hlt => ?_, fun hlong => ⟨raiseInternal s, ?_, ?_⟩⟩
  · exact congrArg Host.Outcome.next (doTag_eq hs hl (burstDesc_of_lt s.sampleCnt hlt))
  · exact congrArg Host.Outcome.next (doTag_raises hs hl hlong)
  · rw [raiseInternal_at hs]
    exact raiseEncodingError_from causeInternal 10 s

/-- Settles O39: the samples enter OUTQ as `tagged`, and the described length is theirs. -/
theorem handoffMovesTheBurst : Obligations.HandoffMovesTheBurst := by
  intro s l d hs hl hd hlen
  refine ⟨tagged d.tag l, ?_, tagged_sample d.tag l, tagged_tags d.tag l⟩
  have hexec : exec .handoff s = .next (handedOver d l s) :=
    congrArg Host.Outcome.next (doHandoff_eq hs hl hd hlen)
  rw [hexec, handedOver, ← hlen, BitVec.ofNat_toNat]

/-! ### The length invariant (R222) -/

section
variable (g : CfgRegs) (p : List Byte)

theorem bodyLine_plain (h : flagAx25 g.cr0 = false) : bodyLine g p = bodyBits g p := if_neg (by simp [h])

theorem bodyLine_stuffed (h : flagAx25 g.cr0 = true) : bodyLine g p = stuff (bodyBits g p) := if_pos h

theorem stuffedZeros_plain (h : flagAx25 g.cr0 = false) : stuffedZeros g p = 0 := by
  rw [stuffedZeros, bodyLine_plain g p h, Nat.sub_self]

/-- The stuffed zeros are what the body grows by, at most one for five of its bits. -/
theorem bodyLine_length : (bodyLine g p).length = (bodyBits g p).length + stuffedZeros g p ∧
    5 * stuffedZeros g p ≤ (bodyBits g p).length := by
  cases hmode : flagAx25 g.cr0 with
  | false =>
    rw [stuffedZeros_plain g p hmode, bodyLine_plain g p hmode]
    exact ⟨rfl, Nat.zero_le _⟩
  | true =>
    obtain ⟨k, hlen, hk⟩ := (stuff_stuffed (bodyBits g p)).growth
    have hzeros : stuffedZeros g p = k := by
      rw [stuffedZeros, bodyLine_stuffed g p hmode, hlen, Nat.add_sub_cancel_left]
    rw [hzeros, bodyLine_stuffed g p hmode]
    exact ⟨hlen, by omega⟩

/-- The line is empty only where every span of the frame is. -/
theorem lineLenFormula_eq_zero (n k : Nat) :
    lineLenFormula g n k = 0 ↔ g.cr1 = [] ∧ g.cr2 = [] ∧ n = 0 ∧ flagAx25 g.cr0 = false ∧ k = 0 ∧
      flagAppendCrc g.cr0 = false := by
  have hcoef (b : Bool) : (if b then 2 else 1) ≠ 0 := by cases b <;> decide
  simp only [lineLenFormula, Nat.add_eq_zero_iff, Nat.mul_eq_zero, hcoef, false_or, List.length_eq_zero_iff]
  cases flagAx25 g.cr0 <;> cases flagAppendCrc g.cr0 <;> simp [and_assoc]

end

/-- Settles O42: by `lineOf_length` with the zeros that stuffing adds, and the lengths being zero. -/
theorem lengthInvariant : Obligations.LengthInvariant := by
  intro g p
  obtain ⟨hbody, hzeros⟩ := bodyLine_length g p
  have hline := lineOf_length g p hbody
  refine ⟨hline, burstOf_length g p, hzeros, stuffedZeros_plain g p, ?_⟩
  have hsettling : g.cr7.toNat = 0 ↔ g.cr7 = 0#32 := BitVec.toNat_inj (y := 0#32)
  rw [← List.length_eq_zero_iff, burstOf_length, hline, Nat.add_eq_zero_iff, lineLenFormula_eq_zero, hsettling,
    List.length_eq_zero_iff]
  constructor
  · rintro ⟨⟨hpre, hsync, hp, hmode, -, hcrc⟩, hcr7⟩
    exact ⟨hmode, hpre, hsync, hp, hcrc, hcr7⟩
  · rintro ⟨hmode, hpre, hsync, hp, hcrc, hcr7⟩
    exact ⟨⟨hpre, hsync, hp, hmode, stuffedZeros_plain g p hmode, hcrc⟩, hcr7⟩

end Sys2Proof.Proofs

/-! PROOFS. ENCODE whole and step by step (R224, R233): what an encode leaves alone, the operations of the slots as the
core runs them and as ENCODE does, and the burst of the closed form. -/

namespace Sys2Proof.Proofs

open Sys2Proof Sys2Proof.Machine Sys2Proof.Spec

/-! ### What an encode leaves alone -/

/-- What no operation of an encode writes, however it ends: the configuration, the ports and inputs, and the working
registers of the units that CR0 does not invoke. -/
structure Bystanders where
  cfg : CfgRegs
  sampOut : Option TaggedSample
  statOut : Option Status
  cfgPort : CfgValues
  host : List HostMove
  word : Option (List Byte)
  crc : Option (BitVec 16)
  ax25 : Option (BitVec 16 × BitVec 3)
  lfsr : Option (BitVec 9)

def bystanders (s : State) : Bystanders :=
  ⟨s.cfg, s.sampOut, s.statOut, s.cfgPort, s.host, s.word, bif s.appendCrc then none else some s.crc,
    bif s.ax25 then none else some (s.fcs, s.ones), bif s.whitening then none else some s.lfsr⟩

theorem elseEffect_bystanders (k : Slot) (s : State) : bystanders (elseEffect k s) = bystanders s := by
  obtain ⟨c, l, h⟩ := elseEffect_frame k s
  rw [h]
  rfl

theorem completeSlot_bystanders (k : Slot) (s : State) : bystanders (completeSlot k s) = bystanders s := by
  obtain ⟨c, l, h⟩ := completeSlot_frame k s
  rw [h]
  rfl

theorem slotOp_bystanders {k : Slot} {on last : Bool} {f : State → Option State} {s : State}
    (hf : on = true → Yields (fun t => bystanders t = bystanders s) (f s)) :
    bystanders (slotOp k on last f s) = bystanders s := by
  rcases slotOp_cases k on last f s with ⟨-, h⟩ | ⟨-, ⟨-, -, h⟩ | ⟨t, hon, ht, h⟩ | ⟨-, h⟩⟩
  · rw [h]
  · rw [h]
    rfl
  · rw [h, ← hf hon t ht]
    split
    · exact completeSlot_bystanders k t
    · rfl
  · rw [h]
    split
    · rw [completeSlot_bystanders, elseEffect_bystanders]
    · rfl

/-! ### A unit that is invoked may write its registers -/

theorem setCrc_bystanders {s : State} (hon : s.appendCrc = true) (v : BitVec 16) :
    bystanders (setCrc v s) = bystanders s := by
  have hon' : (setCrc v s).appendCrc = true := hon
  simp only [bystanders, hon, hon', cond_true]
  rfl

theorem setFcs_bystanders {s : State} (hon : s.ax25 = true) (v : BitVec 16) :
    bystanders (setFcs v s) = bystanders s := by
  have hon' : (setFcs v s).ax25 = true := hon
  simp only [bystanders, hon, hon', cond_true]
  rfl

theorem setOnes_bystanders {s : State} (hon : s.ax25 = true) (v : BitVec 3) :
    bystanders (setOnes v s) = bystanders s := by
  have hon' : (setOnes v s).ax25 = true := hon
  simp only [bystanders, hon, hon', cond_true]
  rfl

theorem setLfsr_bystanders {s : State} (hon : s.whitening = true) (v : BitVec 9) :
    bystanders (setLfsr v s) = bystanders s := by
  have hon' : (setLfsr v s).whitening = true := hon
  simp only [bystanders, hon, hon', cond_true]
  rfl

/-- No operation of the pipeline writes a bystander. -/
theorem pipeline_bystanders : ∀ f ∈ pipeline, ∀ s, bystanders (f s) = bystanders s := by
  simp only [pipeline, List.forall_mem_cons]
  refine ⟨fun s => slotOp_bystanders fun _ => ?frmPre, fun s => slotOp_bystanders fun _ => ?frmSync,
    fun s => slotOp_bystanders fun hon => ?ax25Encap, fun s => slotOp_bystanders fun _ => ?frmBody,
    fun s => slotOp_bystanders fun hon => ?crc16Append, fun s => slotOp_bystanders fun hon => ?whiten,
    fun s => slotOp_bystanders fun _ => ?ser, fun s => slotOp_bystanders fun hon => ?ax25Stuff,
    fun s => slotOp_bystanders fun _ => ?manch, fun s => slotOp_bystanders fun _ => ?nrz,
    fun s => slotOp_bystanders fun _ => ?settle, fun s => slotOp_bystanders fun _ => ?tag,
    fun s => slotOp_bystanders fun _ => ?handoff, by simp⟩
  case frmPre | frmSync => exact .some rfl
  case ax25Encap => exact .bind fun _ => .bind fun _ => .some (setFcs_bystanders hon _)
  case frmBody => exact .ite (.bind fun _ => .some rfl) (.bind fun _ => .some rfl)
  case crc16Append => exact .bind fun _ => .some (setCrc_bystanders hon _)
  case whiten =>
    exact .bind fun _ => .bind fun _ => .bind fun _ => .bind fun _ => .bind fun _ => .some (setLfsr_bystanders hon _)
  case ser | handoff => exact .bind fun _ => .bind fun _ => .bind fun _ => .some rfl
  case ax25Stuff => exact .bind fun _ => .some (setOnes_bystanders hon _)
  case manch => exact .bind fun _ => .bind fun _ => .bind fun _ => .bind fun _ => .some rfl
  case nrz => exact .bind fun _ => .some rfl
  case settle | tag => exact .bind fun _ => .bind fun _ => .some rfl

/-! ### The operations of a slot -/

/-- The operations of slot `k` in order, enabled or not (R224). -/
def slotStages : Slot → List (State → State)
  | .e0 => []
  | .e1 => [doFrmPre, doFrmSync]
  | .e2 => [doAx25Encap, doFrmBody]
  | .e3 => [doCrc16Append]
  | .e4 => [doWhiten]
  | .e5 => [doSer]
  | .e6 => [doAx25Stuff]
  | .e7 => [doManch]
  | .e8 => [doNrz]
  | .e9 => [doSettle]
  | .e10 => [doTag, doHandoff]

def runSlot (k : Slot) (s : State) : State := (slotStages k).foldl (fun t f => f t) s

theorem pipeline_eq_slots : pipeline = allSlots.flatMap slotStages := rfl

theorem runPipeline_eq_slots (s : State) : runPipeline s = allSlots.foldl (fun t k => runSlot k t) s := by
  rw [runPipeline, pipeline_eq_slots, List.foldl_flatMap]
  rfl

/-- What each slot takes over from the slot before, the slots in order take over from the first. -/
theorem foldl_runSlot {P : Slot → State → Prop} {k : Slot} {ks : List Slot} {s : State}
    (hchain : (k :: ks).IsChain (fun a b => a = prevSlot b))
    (hstep : ∀ j ∈ ks, ∀ t, P (prevSlot j) t → P j (runSlot j t)) (h : P k s) :
    P (ks.getLastD k) (ks.foldl (fun t j => runSlot j t) s) := by
  induction ks generalizing k s with
  | nil => exact h
  | cons j ks ih =>
    rw [List.isChain_cons_cons] at hchain
    obtain ⟨rfl, hchain⟩ := hchain
    rw [List.forall_mem_cons] at hstep
    obtain ⟨hj, hstep⟩ := hstep
    rw [List.getLastD_cons, List.foldl_cons]
    exact ih hchain hstep (hj s h)

theorem slotStages_elsewhere {k : Slot} {s : State} (hs : s.seq ≠ ⟨.encoding, k⟩) :
    ∀ f ∈ slotStages k, f s = s := by
  cases k <;> simp only [slotStages, List.forall_mem_cons, List.not_mem_nil, false_implies, implies_true, and_true]
  case e1 | e2 | e10 => exact ⟨slotOp_elsewhere hs, slotOp_elsewhere hs⟩
  all_goals exact slotOp_elsewhere hs

theorem foldl_of_fixed {l : List (State → State)} {s : State} (h : ∀ f ∈ l, f s = s) :
    l.foldl (fun t f => f t) s = s := by
  induction l with
  | nil => rfl
  | cons f l ih =>
    rw [List.forall_mem_cons] at h
    rw [List.foldl_cons, h.1]
    exact ih h.2

theorem runSlot_elsewhere {k : Slot} {s : State} (hs : s.seq ≠ ⟨.encoding, k⟩) : runSlot k s = s :=
  foldl_of_fixed (slotStages_elsewhere hs)

/-- An operation that completes its slot ends the encode or leaves SEQ at the next slot. -/
theorem slotOp_seq {k : Slot} {on : Bool} {f : State → Option State} {s : State} (hs : s.seq = ⟨.encoding, k⟩) :
    (slotOp k on true f s).seq = ⟨.idle, .e0⟩ ∨
      (slotOp k on true f s).seq = nextSeq (slotOp k on true f s).cfg.cr0 k := by
  rcases slotOp_cases k on true f s with ⟨hne, -⟩ | ⟨-, ⟨-, -, h⟩ | ⟨t, -, -, h⟩ | ⟨-, h⟩⟩
  · exact absurd hs hne
  · exact .inl (by rw [h]; rfl)
  all_goals exact .inr (by simp [h])

/-! ### Before TAG no operation reads the burst description -/

/-- The burst description is taken away. -/
def undescribed (s : State) : State := { s with sb := { s.sb with desc := none } }

theorem elseEffect_undescribed (k : Slot) (s : State) :
    elseEffect k (undescribed s) = undescribed (elseEffect k s) := by cases k <;> rfl

theorem elseIfSkipped_undescribed (k : Slot) (j : Seq) (x : Slot) (s : State) :
    elseIfSkipped k j x (undescribed s) = undescribed (elseIfSkipped k j x s) := by
  unfold elseIfSkipped
  split
  · exact elseEffect_undescribed x s
  · rfl

theorem completeSlot_undescribed (k : Slot) (s : State) :
    completeSlot k (undescribed s) = undescribed (completeSlot k s) := by
  have hcfg : (undescribed s).cfg = s.cfg := rfl
  rw [completeSlot, completeSlot, hcfg, elseIfSkipped_undescribed, elseIfSkipped_undescribed]
  rfl

/-- The effect `f` of an operation does not depend on the burst description, and keeps it. -/
def IgnoresDesc (f : State → State) : Prop := ∀ s, f (undescribed s) = undescribed (f s)

theorem slotOp_undescribed {k : Slot} {on last : Bool} {f : State → Option State} {s : State}
    (hf : f (undescribed s) = (f s).map undescribed) :
    slotOp k on last f (undescribed s) = undescribed (slotOp k on last f s) := by
  have hseq : (undescribed s).seq = s.seq := rfl
  rw [slotOp, slotOp, hseq, hf]
  split
  · cases on
    · cases last
      · rfl
      · simp [elseEffect_undescribed, completeSlot_undescribed]
    · cases hfs : f s
      · rfl
      · cases last <;> simp [completeSlot_undescribed]
  · rfl


theorem bind_map_undescribed {α : Type} {o : Option α} {g g' : α → Option State}
    (h : ∀ a, g a = (g' a).map undescribed) : (o >>= g) = (o >>= g').map undescribed := by
  cases o with
  | none => rfl
  | some a => exact h a

theorem doAx25Encap_ignoresDesc : IgnoresDesc doAx25Encap := by
  refine fun s => slotOp_undescribed (bind_map_undescribed fun p => bind_map_undescribed fun _ => ?_)
  have hcfg : (undescribed s).cfg = s.cfg := rfl
  rw [hcfg]
  generalize fcsReg (ax25Hdr s.cfg p) = f, ax25Encap s.cfg p = b
  rfl

theorem doFrmBody_ignoresDesc : IgnoresDesc doFrmBody := by
  refine fun s => slotOp_undescribed ?_
  have hmode : (undescribed s).ax25 = s.ax25 := rfl
  rw [hmode]
  split
  · exact bind_map_undescribed fun _ => rfl
  · exact bind_map_undescribed fun _ => rfl

/-- Every operation before TAG ignores the burst description. -/
theorem slotStages_ignoreDesc {k : Slot} (hk : k ≠ .e10) : ∀ f ∈ slotStages k, IgnoresDesc f := by
  cases k <;> simp only [slotStages, List.forall_mem_cons, List.not_mem_nil, false_implies, implies_true, and_true]
  case e1 => exact ⟨fun s => slotOp_undescribed rfl, fun s => slotOp_undescribed rfl⟩
  case e2 =>
    exact ⟨doAx25Encap_ignoresDesc, doFrmBody_ignoresDesc⟩
  case e3 | e6 | e8 => exact fun s => slotOp_undescribed (bind_map_undescribed fun _ => rfl)
  case e4 =>
    exact fun s => slotOp_undescribed (bind_map_undescribed fun _ => bind_map_undescribed fun _ =>
      bind_map_undescribed fun _ => bind_map_undescribed fun _ => bind_map_undescribed fun _ => rfl)
  case e5 =>
    exact fun s => slotOp_undescribed (bind_map_undescribed fun _ => bind_map_undescribed fun _ =>
      bind_map_undescribed fun _ => rfl)
  case e7 =>
    exact fun s => slotOp_undescribed (bind_map_undescribed fun _ => bind_map_undescribed fun _ =>
      bind_map_undescribed fun _ => bind_map_undescribed fun _ => rfl)
  case e9 => exact fun s => slotOp_undescribed (bind_map_undescribed fun _ => bind_map_undescribed fun _ => rfl)
  case e10 => exact absurd rfl hk

theorem runSlot_undescribed {k : Slot} (hk : k ≠ .e10) (s : State) :
    runSlot k (undescribed s) = undescribed (runSlot k s) := by
  have h := slotStages_ignoreDesc hk
  unfold runSlot
  generalize slotStages k = l at h
  induction l generalizing s with
  | nil => rfl
  | cons f l ih =>
    rw [List.forall_mem_cons] at h
    rw [List.foldl_cons, List.foldl_cons, h.1 s]
    exact ih _ h.2

theorem undescribed_of_desc {s : State} (h : s.sb.desc = none) : undescribed s = s := by
  rw [undescribed, ← h]

/-- Before TAG there is no burst description. -/
theorem runSlot_desc {k : Slot} (hk : k ≠ .e10) {s : State} (h : s.sb.desc = none) : (runSlot k s).sb.desc = none := by
  have hnone := runSlot_undescribed hk s
  rw [undescribed_of_desc h] at hnone
  rw [hnone]
  rfl

end Sys2Proof.Proofs

/-! PROOFS. Stepwise and whole (R224, R225, R233): from one slot to the next, the core runs by itself what ENCODE runs. -/

namespace Sys2Proof.Proofs

open Sys2Proof Sys2Proof.Machine Sys2Proof.Spec

/-! ### The core's moves -/

/-- The core's own operation inside an encode is one of the pipeline; the other one it has is CFG.LOAD. -/
theorem coreMove_stage {s : State} {i : Instr} (h : coreMove s = .run i) :
    i = .cfgLoad ∨ ∃ f ∈ pipeline, exec i s = .next (f s) := by
  unfold coreMove at h
  cases hphase : s.seq.phase <;> simp only [hphase] at h
  case reset => cases h; exact .inl rfl
  case idle | cfgerr => cases h
  case encoding =>
    right
    cases hslot : s.seq.slot <;> simp only [hslot] at h
    case e0 => cases h
    case e1 | e2 | e10 => split at h <;> cases h <;> exact ⟨_, by simp [pipeline], rfl⟩
    all_goals cases h; exact ⟨_, by simp [pipeline], rfl⟩

/-- The core's own operations write neither the host's moves nor a word. -/
theorem coreMove_keeps_inputs {s t : State} {i : Instr} (hi : coreMove s = .run i) (h : exec i s = .next t) :
    t.host = s.host ∧ t.word = s.word := by
  rcases coreMove_stage hi with rfl | ⟨f, hf, hexec⟩
  · cases h
    split
    · split <;> exact ⟨rfl, rfl⟩
    · exact ⟨rfl, rfl⟩
  · have hkept := pipeline_bystanders f hf s
    rw [next_unique h hexec]
    exact ⟨congrArg Bystanders.host hkept, congrArg Bystanders.word hkept⟩

theorem coreRun_step {n : Nat} {s t : State} (h : step s = .next t) : coreRun (n + 1) s = coreRun n t := by
  simp [coreRun, h]

theorem coreRun_idle {s : State} (hh : s.host = []) (hw : s.word = none) (hs : coreMove s = .idle) (n : Nat) :
    coreRun n s = .next s := by
  induction n with
  | zero => rfl
  | succ n ih => rw [coreRun_step ((step_nil hw hh).trans (coreStep_idle hs)), ih]

/-- With the host silent, the moves of the core are the operations it runs, until it waits. -/
theorem coreRun_of_runs {s t : State} {l : List Instr} {n : Nat} (h : Runs s l t) (ht : coreMove t = .idle)
    (hn : l.length ≤ n) (hh : s.host = []) (hw : s.word = none) : coreRun n s = .next t := by
  induction h generalizing n with
  | nil => exact coreRun_idle hh hw ht n
  | cons hmove hexec _ ih =>
    obtain ⟨n, rfl⟩ := Nat.exists_eq_add_one_of_ne_zero (Nat.ne_zero_of_lt hn)
    obtain ⟨hhost, hword⟩ := coreMove_keeps_inputs hmove hexec
    rw [coreRun_step ((step_nil hw hh).trans ((coreStep_run hmove).trans hexec))]
    exact ih ht (Nat.le_of_succ_le_succ hn) (hhost.trans hh) (hword.trans hw)

/-! ### From slot to slot -/

/-- How many operations the slots up to `k` have. -/
def stageCount : Slot → Nat
  | .e0 => 0 | .e1 => 2 | .e2 => 4 | .e3 => 5 | .e4 => 6 | .e5 => 7
  | .e6 => 8 | .e7 => 9 | .e8 => 10 | .e9 => 11 | .e10 => 13

theorem stageCount_prevSlot (k : Slot) : stageCount k = stageCount (prevSlot k) + (slotStages k).length := by
  cases k <;> rfl

/-- What tells the first operation of a slot after `k` from its second is not written yet (log 14). -/
structure LatchesClear (k : Slot) (s : State) : Prop where
  pre : slotNum k < 1 → s.fb.pre = none
  encap : slotNum k < 2 → s.encap = none
  desc : s.sb.desc = none

/-- The encode has ended, or slot `k` is behind and the slots after it have not begun. -/
def Reached (k : Slot) (s : State) : Prop :=
  s.seq = ⟨.idle, .e0⟩ ∨ (s.seq = nextSeq s.cfg.cr0 k ∧ LatchesClear k s)

/-- The core goes over slot `k` by itself as `runSlot` does. -/
def StepsOver (k : Slot) (s : State) : Prop :=
  ∃ l : List Instr, l.length ≤ (slotStages k).length ∧ Runs s l (runSlot k s) ∧ Reached k (runSlot k s)

section
variable {k : Slot} {s : State} {i j : Instr} {f f' : State → State}

theorem LatchesClear.later (h : LatchesClear (prevSlot k) s) : LatchesClear k s where
  pre hk := h.pre (by rw [slotNum_prevSlot]; omega)
  encap hk := h.encap (by rw [slotNum_prevSlot]; omega)
  desc := h.desc

theorem latchesClear_of_desc (hk : 2 ≤ slotNum k) (h : s.sb.desc = none) : LatchesClear k s :=
  ⟨fun hlt => by omega, fun hlt => by omega, h⟩

/-! ### A slot that runs -/

/-- The last operation of slot E2 or a later one completes its slot. -/
theorem runSlot_reached {t : State} (hk : 2 ≤ slotNum k) (hk' : k ≠ .e10) (hrun : runSlot k s = t)
    (hseq : t.seq = ⟨.idle, .e0⟩ ∨ t.seq = nextSeq t.cfg.cr0 k) (h : s.sb.desc = none) : Reached k (runSlot k s) := by
  have hdesc : (runSlot k s).sb.desc = none := runSlot_desc hk' h
  rw [hrun] at hdesc ⊢
  exact hseq.imp_right fun hnext => ⟨hnext, latchesClear_of_desc hk hdesc⟩

theorem stepsOver_single (hk : 2 ≤ slotNum k) (hk' : k ≠ .e10) (hstages : slotStages k = [f])
    (hmove : coreMove s = .run i) (hexec : exec i s = .next (f s))
    (hseq : (f s).seq = ⟨.idle, .e0⟩ ∨ (f s).seq = nextSeq (f s).cfg.cr0 k) (h : s.sb.desc = none) :
    StepsOver k s := by
  have hrun : runSlot k s = f s := by
    rw [runSlot, hstages]
    rfl
  exact ⟨[i], by rw [hstages]; exact le_refl 1, hrun ▸ .single hmove hexec, runSlot_reached hk hk' hrun hseq h⟩

theorem stepsOver_pair (hstages : slotStages k = [f, f']) (hmove : coreMove s = .run i)
    (hexec : exec i s = .next (f s)) (hmove' : coreMove (f s) = .run j) (hexec' : exec j (f s) = .next (f' (f s)))
    (hreached : Reached k (runSlot k s)) : StepsOver k s := by
  refine ⟨[i, j], by rw [hstages]; exact le_refl 2, ?_, hreached⟩
  rw [runSlot, hstages]
  exact .cons hmove hexec (.single hmove' hexec')

/-- Where the first of two operations ends the encode, neither the core nor ENCODE runs the second. -/
theorem stepsOver_raises (hstages : slotStages k = [f, f']) (hmove : coreMove s = .run i)
    (hexec : exec i s = .next (f s)) (hf : f s = raiseInternal s) (hf' : f' (raiseInternal s) = raiseInternal s) :
    StepsOver k s := by
  have hrun : runSlot k s = raiseInternal s := by
    rw [runSlot, hstages, List.foldl_cons, List.foldl_cons, hf, hf']
    rfl
  refine ⟨[i], by rw [hstages]; exact Nat.le_succ 1, ?_, .inl (hrun ▸ rfl)⟩
  rw [hrun, ← hf]
  exact .single hmove hexec

theorem stepsOver_e1 (hs : s.seq = ⟨.encoding, .e1⟩) (h : LatchesClear .e0 s) : StepsOver .e1 s := by
  have hpre : doFrmPre s = preFramed s := doFrmPre_eq hs
  refine stepsOver_pair rfl (i := .frmPre) (j := .frmSync) ?_ rfl ?_ rfl (.inr ?_)
  · simp [coreMove, hs, h.pre (by decide)]
  · simp [coreMove, hpre, preFramed, hs]
  · have hrun : runSlot .e1 s = { preFramed s with
        fb := { (preFramed s).fb with sync := some s.cfg.cr2 }, seq := ⟨.encoding, .e2⟩ } :=
      (congrArg doFrmSync hpre).trans (doFrmSync_eq (s := preFramed s) hs)
    rw [hrun, nextSeq_eq]
    exact ⟨rfl, fun hlt => absurd hlt (by decide), fun _ => h.encap (by decide), h.desc⟩

theorem stepsOver_e2 (hs : s.seq = ⟨.encoding, .e2⟩) (h : LatchesClear .e1 s) : StepsOver .e2 s := by
  have hencap : s.encap = none := h.encap (by decide)
  have hreached (hat : (doAx25Encap s).seq = ⟨.encoding, .e2⟩) : Reached .e2 (runSlot .e2 s) :=
    runSlot_reached (t := doFrmBody (doAx25Encap s)) (by decide) (by decide) rfl (slotOp_seq hat) h.desc
  cases hmode : s.ax25 with
  | false =>
    have hskip : doAx25Encap s = s := doAx25Encap_disabled hmode
    have hrun : runSlot .e2 s = doFrmBody s := congrArg doFrmBody hskip
    have hmove : coreMove s = .run .frmBody := by simp [coreMove, hs, hmode]
    exact ⟨[.frmBody], by decide, hrun ▸ .single hmove rfl, hreached (by rw [hskip, hs])⟩
  | true =>
    have hmove : coreMove s = .run .ax25Encap := by simp [coreMove, hs, hmode, hencap]
    by_cases hread : s.pb = none ∨ s.held.addr = false
    · have hraise : exec .ax25Encap s = .next (raiseInternal s) :=
        exec_of_readsUnwritten (by rw [hs]) ⟨by rw [hs], hmode, hread⟩
      exact stepsOver_raises rfl hmove rfl (Host.Outcome.next.inj hraise) (slotOp_elsewhere (by simp))
    · rw [not_or, Bool.not_eq_false] at hread
      obtain ⟨p, hpb⟩ := Option.ne_none_iff_exists'.mp hread.1
      have hencapped : doAx25Encap s = encapped p s := doAx25Encap_enabled hs hmode hpb hread.2
      refine stepsOver_pair rfl (j := .frmBody) hmove rfl ?_ rfl (hreached (hencapped ▸ hs))
      simp [coreMove, hencapped, encapped, hs]

theorem stepsOver_e10 (hs : s.seq = ⟨.encoding, .e10⟩) (h : LatchesClear .e9 s) : StepsOver .e10 s := by
  have hmove : coreMove s = .run .tag := by simp [coreMove, hs, h.desc]
  have raises (hraise : doTag s = raiseInternal s) : StepsOver .e10 s :=
    stepsOver_raises rfl hmove rfl hraise (slotOp_elsewhere (by simp))
  cases hsb : s.sb.s with
  | none =>
    have hraise : exec .tag s = .next (raiseInternal s) :=
      exec_of_readsUnwritten (by rw [hs]) ⟨by rw [hs], hsb⟩
    exact raises (Host.Outcome.next.inj hraise)
  | some l =>
    by_cases hlen : l.length < lenLimit
    · obtain ⟨d, hd, hdlen⟩ := burstDesc_of_fits s.sampleCnt hlen
      have htag : doTag s = described d s := doTag_eq hs hsb hd
      have hrun : runSlot .e10 s = handedOver d l (described d s) :=
        (congrArg doHandoff htag).trans (doHandoff_eq (s := described d s) hs hsb rfl hdlen)
      refine stepsOver_pair rfl (j := .handoff) hmove rfl ?_ rfl (.inl (hrun ▸ rfl))
      simp [coreMove, htag, described, hs]
    · exact raises (doTag_raises hs hsb (Nat.not_lt.mp hlen))

theorem stepsOver_slot (hk : k ≠ .e0) (hs : s.seq = ⟨.encoding, k⟩) (h : LatchesClear (prevSlot k) s) :
    StepsOver k s := by
  obtain ⟨-, -, -, -, h3, h4, h5, h6, h7, h8, h9, -⟩ := sequencerPicksTheSlotsOperation s
  cases k with
  | e0 => exact absurd rfl hk
  | e1 => exact stepsOver_e1 hs h
  | e2 => exact stepsOver_e2 hs h
  | e3 => exact stepsOver_single (by decide) (by decide) rfl (h3 hs) rfl (slotOp_seq hs) h.desc
  | e4 => exact stepsOver_single (by decide) (by decide) rfl (h4 hs) rfl (slotOp_seq hs) h.desc
  | e5 => exact stepsOver_single (by decide) (by decide) rfl (h5 hs) rfl (slotOp_seq hs) h.desc
  | e6 => exact stepsOver_single (by decide) (by decide) rfl (h6 hs) rfl (slotOp_seq hs) h.desc
  | e7 => exact stepsOver_single (by decide) (by decide) rfl (h7 hs) rfl (slotOp_seq hs) h.desc
  | e8 => exact stepsOver_single (by decide) (by decide) rfl (h8 hs) rfl (slotOp_seq hs) h.desc
  | e9 => exact stepsOver_single (by decide) (by decide) rfl (h9 hs) rfl (slotOp_seq hs) h.desc
  | e10 => exact stepsOver_e10 hs h

/-! ### Slot after slot, run or skipped -/

theorem nextSeq_ne (f : Byte) (k : Slot) : nextSeq f k ≠ ⟨.encoding, k⟩ := by
  rcases nextSeq_cases f k with h | ⟨j, -, hlt, -, h⟩
  · rw [h]
    simp
  · rw [h]
    rintro ⟨⟩
    exact absurd hlt (lt_irrefl _)

theorem Reached.stepsOver (hk : k ≠ .e0) (h : Reached (prevSlot k) s) : StepsOver k s := by
  have stays (hs : s.seq ≠ ⟨.encoding, k⟩) (hreached : Reached k s) : StepsOver k s := by
    rw [StepsOver, runSlot_elsewhere hs]
    exact ⟨[], Nat.zero_le _, .nil s, hreached⟩
  rcases h with hidle | ⟨hseq, hlatches⟩
  · exact stays (by simp [hidle]) (.inl hidle)
  · cases hrun : slotRuns s.cfg.cr0 k with
    | true => exact stepsOver_slot hk (hseq.trans (nextSeq_prevSlot_runs hrun)) hlatches
    | false =>
      have hskip := hseq.trans (nextSeq_prevSlot_skips hrun)
      exact stays (hskip ▸ nextSeq_ne _ k) (.inr ⟨hskip, hlatches.later⟩)

/-- From `s` the core has run the slots up to `k` by itself, and has come to `t`. -/
def RunsTo (s : State) (k : Slot) (t : State) : Prop :=
  ∃ l : List Instr, l.length ≤ stageCount k ∧ Runs s l t ∧ Reached k t

theorem RunsTo.runSlot {t : State} (hk : k ≠ .e0) (h : RunsTo s (prevSlot k) t) : RunsTo s k (runSlot k t) := by
  obtain ⟨l, hlen, hrun, hreached⟩ := h
  obtain ⟨l', hlen', hrun', hreached'⟩ := hreached.stepsOver hk
  refine ⟨l ++ l', ?_, hrun.append hrun', hreached'⟩
  rw [List.length_append, stageCount_prevSlot]
  exact Nat.add_le_add hlen hlen'

/-- From the start of an encode the core runs by itself, in at most thirteen operations, what ENCODE does. -/
theorem runPipeline_runs (hs : s.seq = ⟨.encoding, .e1⟩) (h : LatchesClear .e0 s) :
    ∃ l, l.length ≤ 13 ∧ Runs s l (runPipeline s) ∧ (runPipeline s).seq = ⟨.idle, .e0⟩ := by
  have hslots : ∀ k ∈ allSlots, k ≠ .e0 := by decide
  have hstart : RunsTo s .e0 s := ⟨[], le_refl 0, .nil s, .inr ⟨hs, h⟩⟩
  obtain ⟨l, hlen, hrun, hend⟩ : RunsTo s .e10 (runPipeline s) := by
    rw [runPipeline_eq_slots]
    exact foldl_runSlot (k := .e0) (by decide) (fun k hk t => RunsTo.runSlot (hslots k hk)) hstart
  refine ⟨l, hlen, hrun, ?_⟩
  rcases hend with hend | ⟨hend, -⟩
  · exact hend
  · rw [hend, nextSeq_eq]

end

/-- Settles O45: the core's moves are the operations of `runPipeline_runs`, after which it waits. -/
theorem stepwiseRunIsEncode : Obligations.StepwiseRunIsEncode := by
  intro s p hphase hh hw hmax hempty
  obtain ⟨l, hlen, hrun, hend⟩ := runPipeline_runs (s := accepted p s) rfl ⟨fun _ => rfl, fun _ => rfl, rfl⟩
  have hencode : exec .encode (accepted p s) = .next (runPipeline (accepted p s)) := exec_encode rfl
  have hwaits : coreMove (runPipeline (accepted p s)) = .idle := by simp [coreMove, hend]
  obtain ⟨u, -, hends⟩ := encode_ends hencode rfl (by rw [hend])
  exact ⟨_, _, execPduAccept_accepted hphase hmax hempty, coreRun_of_runs hrun hwaits hlen hh hw, hencode, hend,
    hends.pushAns.imp_right And.left⟩

end Sys2Proof.Proofs

/-! PROOFS. ENCODE puts out the burst of the closed form (R224, R220, R221), which depends on configuration and PDU
alone (R236). -/

namespace Sys2Proof.Proofs

open Sys2Proof Sys2Proof.Machine Sys2Proof.Spec

/-! ### The burst in the sample buffer -/

section
variable {g : CfgRegs} {p : List Byte} {k : Slot} {s : State}

theorem runSlot_e1 (hs : s.seq = ⟨.encoding, .e1⟩) : runSlot .e1 s = synced s :=
  (congrArg doFrmSync (doFrmPre_eq hs)).trans (doFrmSync_eq (s := preFramed s) hs)

theorem runSlot_e2_carried (hs : s.seq = ⟨.encoding, .e2⟩) (h : InEncode g p s)
    (hfb : s.fb = ⟨some g.cr1, some g.cr2, none, []⟩) : Carried g p .e2 (runSlot .e2 s) := by
  obtain rfl := h.cfg
  cases hmode : s.ax25 with
  | true =>
    have hbody : bodyOf s.cfg p = ax25Encap s.cfg p := if_pos hmode
    have hrun : runSlot .e2 s = doFrmBody (encapped p s) := congrArg doFrmBody (doAx25Encap_eq hs hmode h)
    rw [hrun]
    refine doFrmBody_carried (s := encapped p s) hs ⟨rfl, h.pb, h.addr, h.desc⟩ hfb ?_
    rw [hbody]
    exact if_pos hmode
  | false =>
    have hbody : bodyOf s.cfg p = p := if_neg (Bool.eq_false_iff.mp hmode)
    have hrun : runSlot .e2 s = doFrmBody s := congrArg doFrmBody (doAx25Encap_disabled hmode)
    rw [hrun]
    refine doFrmBody_carried hs h hfb ?_
    rw [hbody, hmode]
    exact h.pb

/-- The slots from E3 to E9, run or skipped, carry the encode on. -/
theorem Carried.runSlot (hfit : (lineOf g p).length + g.cr7.toNat < lenLimit) (hk : 3 ≤ slotNum k ∧ slotNum k ≤ 9)
    (h : Carried g p (prevSlot k) s) : Carried g p k (runSlot k s) := by
  obtain ⟨u, rfl, hu⟩ := h
  cases hrun : slotRuns g.cr0 k with
  | false =>
    rw [completeSlot_prevSlot_skips (hu.cfg ▸ hrun), runSlot_elsewhere (nextSeq_ne _ k)]
    exact ⟨_, rfl, hu.skip hrun⟩
  | true =>
    rw [completeSlot_prevSlot_runs (hu.cfg ▸ hrun)]
    have hat := hu.withSeq ⟨.encoding, k⟩
    cases k with
    | e0 | e1 | e2 | e10 => exact absurd hk (by decide)
    | e3 => exact doCrc16Append_carried rfl hrun hat
    | e4 => exact doWhiten_carried rfl hrun hat
    | e5 => exact doSer_carried rfl hat
    | e6 => exact doAx25Stuff_carried rfl hrun hat
    | e7 => exact doManch_carried rfl hrun hat
    | e8 => exact doNrz_carried rfl hat
    | e9 => exact doSettle_carried hfit rfl hat

/-- The slots that build the burst. -/
def buildSlots : List Slot := [.e1, .e2, .e3, .e4, .e5, .e6, .e7, .e8, .e9]

/-- The state after them, before TAG. -/
def settled (s : State) : State := buildSlots.foldl (fun t k => runSlot k t) s

/-- Up to slot E9 the encode builds the burst of the closed form, whatever an earlier encode has left (R224). -/
theorem settled_carried (h : readyToEncode s p) (hfit : fits s p) :
    Carried s.cfg p .e9 (undescribed (settled s)) := by
  obtain ⟨hs, hpb, haddr⟩ := h
  have hframed : Carried s.cfg p .e2 (undescribed (runSlot .e2 (synced s))) := by
    rw [← runSlot_undescribed (by decide)]
    exact runSlot_e2_carried rfl ⟨rfl, hpb, haddr, rfl⟩ rfl
  have hrange : ∀ k ∈ [Slot.e3, .e4, .e5, .e6, .e7, .e8, .e9], (3 ≤ slotNum k ∧ slotNum k ≤ 9) ∧ k ≠ .e10 := by decide
  rw [settled, buildSlots, List.foldl_cons, runSlot_e1 hs, List.foldl_cons]
  refine foldl_runSlot (P := fun k t => Carried s.cfg p k (undescribed t)) (k := .e2) (by decide)
    (fun k hk t ht => ?_) hframed
  rw [← runSlot_undescribed (hrange k hk).2]
  exact ht.runSlot hfit (hrange k hk).1

theorem sampleBuf_of_carried (h : Carried g p .e9 (undescribed s)) :
    s.seq = ⟨.encoding, .e10⟩ ∧ s.sb.s = some (burstOf g p) := by
  obtain ⟨u, hu, hpassed⟩ := h
  have hseq : (undescribed s).seq = (completeSlot .e9 u).seq := congrArg State.seq hu
  have hsb : (undescribed s).sb.s = (completeSlot .e9 u).sb.s := congrArg (fun t => t.sb.s) hu
  rw [completeSlot_seq, nextSeq_eq] at hseq
  rw [completeSlot_sb] at hsb
  exact ⟨hseq, hsb.trans hpassed.holds⟩

theorem settled_sampleBuf (h : readyToEncode s p) (hfit : fits s p) :
    (settled s).seq = ⟨.encoding, .e10⟩ ∧ (settled s).sb.s = some (burstOf s.cfg p) :=
  sampleBuf_of_carried (settled_carried h hfit)

theorem settled_eq_stages (s : State) :
    settled s = (buildSlots.flatMap slotStages).foldl (fun t f => f t) s := by
  rw [settled, List.foldl_flatMap]
  rfl

/-- An encode that has come to slot E10 has worked only. -/
theorem settled_within (h : readyToEncode s p) (hfit : fits s p) : Within s (settled s) := by
  have hstages : ∀ f ∈ buildSlots.flatMap slotStages, IsStage f :=
    fun f hf => pipeline_isStage f (List.mem_append_left [doTag, doHandoff] hf)
  obtain ⟨u, hsu, hu | hends⟩ := foldl_stages_cases hstages s
  · rw [settled_eq_stages, hu]
    exact hsu
  · rw [← settled_eq_stages] at hends
    have hidle := hends.phase
    rw [(settled_sampleBuf h hfit).1] at hidle
    cases hidle

/-! ### The whole run -/

/-- What TAG writes for the burst `l` at the stream offset `cnt` (R220). -/
def descOf (cnt : BitVec 64) (l : List Sample) : BurstDesc :=
  ⟨BitVec.ofNat 32 l.length, cnt, burstTag l.length cnt⟩

theorem descOf_len (cnt : BitVec 64) {l : List Sample} (h : l.length < lenLimit) :
    l.length = (descOf cnt l).len.toNat := by
  rw [descOf, BitVec.toNat_ofNat]
  exact (Nat.mod_eq_of_lt h).symm

/-- TAG and HANDOFF of a burst `l` that fits (R220, R230). -/
theorem runSlot_e10 {l : List Sample} (hs : s.seq = ⟨.encoding, .e10⟩) (hl : s.sb.s = some l)
    (hlen : l.length < lenLimit) :
    ∃ u, Within s u ∧ runSlot .e10 s = handedOver (descOf s.sampleCnt l) l u := by
  have hdesc : burstDesc s.sampleCnt l = some (descOf s.sampleCnt l) := if_pos hlen
  have htag : runSlot .e10 s = doHandoff (described (descOf s.sampleCnt l) s) :=
    congrArg doHandoff (doTag_eq hs hl hdesc)
  exact ⟨described (descOf s.sampleCnt l) s, ⟨rfl, .inl rfl, .inr ⟨l, hdesc.symm⟩⟩,
    htag.trans (doHandoff_eq (s := described _ s) hs hl rfl (descOf_len s.sampleCnt hlen).symm)⟩

theorem runPipeline_eq_settled (s : State) : runPipeline s = runSlot .e10 (settled s) := by
  have hslots : allSlots = buildSlots ++ [.e10] := rfl
  rw [runPipeline_eq_slots, hslots, List.foldl_append, List.foldl_cons, List.foldl_nil, settled]

theorem burstOf_length_lt (hfit : fits s p) : (burstOf s.cfg p).length < lenLimit := by
  rw [burstOf_length]
  exact hfit

/-- A burst that fits is described and handed over. -/
theorem runPipeline_of_fits (h : readyToEncode s p) (hfit : fits s p) :
    ∃ u, Within s u ∧ runPipeline s = handedOver (descOf s.sampleCnt (burstOf s.cfg p)) (burstOf s.cfg p) u := by
  obtain ⟨hat, hsb⟩ := settled_sampleBuf h hfit
  have hwithin := settled_within h hfit
  obtain ⟨u, hu, hrun⟩ := runSlot_e10 hat hsb (burstOf_length_lt hfit)
  rw [hwithin.sampleCnt] at hrun
  exact ⟨u, hwithin.trans hu, (runPipeline_eq_settled s).trans hrun⟩

theorem foldl_bystanders {l : List (State → State)} (hl : ∀ f ∈ l, ∀ s, bystanders (f s) = bystanders s) (s : State) :
    bystanders (l.foldl (fun t f => f t) s) = bystanders s := by
  induction l generalizing s with
  | nil => rfl
  | cons f l ih =>
    rw [List.forall_mem_cons] at hl
    rw [List.foldl_cons, ih hl.2, hl.1]

theorem runPipeline_bystanders (s : State) : bystanders (runPipeline s) = bystanders s :=
  foldl_bystanders pipeline_bystanders s

/-- The working registers of the units that are not invoked. -/
theorem registers_of_bystanders {t : State} (h : bystanders t = bystanders s) :
    (s.appendCrc = false → t.crc = s.crc) ∧ (s.ax25 = false → t.fcs = s.fcs ∧ t.ones = s.ones) ∧
      (s.whitening = false → t.lfsr = s.lfsr) := by
  have hcfg : t.cfg = s.cfg := congrArg Bystanders.cfg h
  have hcrc := congrArg Bystanders.crc h
  have hax25 := congrArg Bystanders.ax25 h
  have hlfsr := congrArg Bystanders.lfsr h
  simp only [bystanders, State.appendCrc, State.ax25, State.whitening, hcfg] at hcrc hax25 hlfsr ⊢
  refine ⟨fun hoff => ?_, fun hoff => ?_, fun hoff => ?_⟩
  · simpa [hoff] using hcrc
  · simpa [hoff] using hax25
  · simpa [hoff] using hlfsr

end

/-! ### The obligations -/

/-- Settles O40: `runPipeline_of_fits` for the burst and the end of the encode, `runPipeline_bystanders` for the rest. -/
theorem encodeMatchesTheClosedForm : Obligations.EncodeMatchesTheClosedForm := by
  intro s p h hfit
  obtain ⟨u, hsu, hrun⟩ := runPipeline_of_fits h hfit
  have hkept := runPipeline_bystanders s
  obtain ⟨hcrc, hax25, hlfsr⟩ := registers_of_bystanders hkept
  have hexec := exec_encode h.1
  rw [hrun] at hexec hkept hcrc hax25 hlfsr
  refine ⟨_, tagged _ (burstOf s.cfg p), hexec, ?_, tagged_sample _ _,
    tagged_tags _ _, ?_, rfl, rfl, hsu.cfg, hsu.err, hsu.par, congrArg Bystanders.sampOut hkept,
    congrArg Bystanders.statOut hkept, congrArg Bystanders.cfgPort hkept, congrArg Bystanders.host hkept,
    congrArg Bystanders.word hkept, rfl, rfl, rfl, rfl, rfl, ?_, rfl, hcrc, hax25, hlfsr⟩
  · rw [← hsu.outq]
    rfl
  · rw [handedOver_sampleCnt (descOf_len s.sampleCnt (burstOf_length_lt hfit)), tagged_length, hsu.sampleCnt]
  · rw [← hsu.addr]
    rfl

/-- The tag without its offset. -/
def markOf (o : Option Tag) : Option (Bit × BitVec 32) := o.map fun g => (g.sob, g.burstLen)

theorem markOf_burstTag (n : Nat) (off off' : BitVec 64) : markOf (burstTag n off) = markOf (burstTag n off') := by
  unfold burstTag
  split <;> rfl

theorem markOf_tagged {o o' : Option Tag} (h : markOf o = markOf o') (l : List Sample) :
    ((tagged o l).map TaggedSample.tag).map markOf = ((tagged o' l).map TaggedSample.tag).map markOf := by
  cases l <;> simp [tagged, h]

/-- Settles O43: both bursts are that of the closed form, and the start mark and length of its tag do not depend on the
stream offset. -/
theorem burstDependsOnThePduAlone : Obligations.BurstDependsOnThePduAlone := by
  intro s u p hs hu hcfg hfit
  obtain ⟨t, q, ht, htq, hqs, hqt, -⟩ := encodeMatchesTheClosedForm s p hs hfit
  obtain ⟨v, r, hv, hvr, hrs, hrt, -⟩ := encodeMatchesTheClosedForm u p hu (by rwa [fits, ← hcfg])
  rw [← hcfg] at hrs hrt
  have marks (l : List TaggedSample) :
      (l.map fun x => x.tag.map fun g => (g.sob, g.burstLen)) = (l.map TaggedSample.tag).map markOf := by
    simp [markOf, Function.comp_def]
  refine ⟨t, v, q, r, ht, hv, htq, hvr, hqs.trans hrs.symm, ?_⟩
  rw [marks, marks, hqt, hrt, ← tagged_tags, ← tagged_tags]
  exact markOf_tagged (markOf_burstTag _ s.sampleCnt u.sampleCnt) _

end Sys2Proof.Proofs

/-! PROOFS. Reset (R45, R270) and the checks of CFG.LOAD in their order (R249): the model's checks, written as nested
conditions, report the first entry of the list of R249 that fails. -/

namespace Sys2Proof.Proofs

open Sys2Proof Sys2Proof.Machine Sys2Proof.Spec

/-! ### Reset (R270) -/

/-- What RESET leaves is made of port `cfg`, the host's moves and the parameters alone (log 26). -/
theorem resetOf_congr {s u : State} (hport : u.cfgPort = s.cfgPort) (hhost : u.host = s.host) (hpar : u.par = s.par) :
    resetOf u = resetOf s := by
  rw [resetOf, resetOf, hport, hhost, hpar]

/-- Settles O1: the fields of `resetOf`, and CFG.LOAD as the core's move in phase RESET. -/
theorem resetLeavesResetValues : Obligations.ResetLeavesResetValues := by
  intro s
  refine ⟨resetOf s, rfl, rfl, rfl, rfl, rfl, rfl, rfl, rfl, rfl, rfl, rfl, rfl, rfl, rfl, rfl, rfl, rfl, rfl, rfl,
    fun u hport hhost hpar => ?_, fun hsilent => ?_⟩
  · rw [← resetOf_congr hport hhost hpar]
    rfl
  · rw [step_nil (s := resetOf s) rfl hsilent, coreStep_run (i := .cfgLoad) rfl]

/-! ### The first failing check of a list (R249) -/

/-- Cause and info of the first check that fails. -/
def firstFailing (l : List (Bool × BitVec 4 × Byte)) : Option (BitVec 4 × Byte) := (l.find? (·.1)).map (·.2)

theorem firstFailing_nil : firstFailing [] = none := rfl

theorem firstFailing_cons (b : Bool) (e : BitVec 4 × Byte) (l : List (Bool × BitVec 4 × Byte)) :
    firstFailing ((b, e) :: l) = if b then some e else firstFailing l := by
  cases b <;> rfl

theorem firstFailing_append (l l' : List (Bool × BitVec 4 × Byte)) :
    firstFailing (l ++ l') = (firstFailing l).or (firstFailing l') := by
  rw [firstFailing, List.find?_append, Option.map_or]
  rfl

/-! ### The checks of the model, as lists (R242, R243, R249) -/

def callsignChecks (w : Byte) (t : List Byte) : List (Bool × BitVec 4 × Byte) :=
  [(callsignLenBad t, 1, w), (callsignCharBad t, 2, w)]

def ssidChecks (w n : Byte) : List (Bool × BitVec 4 × Byte) := [(decide (15 < n.toNat), 3, w)]

def addrChecks (a : AddrGroup) : List (Bool × BitVec 4 × Byte) :=
  callsignChecks 0 a.dest ++ (ssidChecks 0 a.dssid ++ (callsignChecks 1 a.src ++ ssidChecks 1 a.sssid))

theorem callCharOk_eq (c : Byte) :
    callCharOk c = (decide (0x41 ≤ c.toNat ∧ c.toNat ≤ 0x5A) || decide (0x30 ≤ c.toNat ∧ c.toNat ≤ 0x39)) := by
  simp [callCharOk, BitVec.le_def]

theorem callsignCharBad_eq (t : List Byte) : callsignCharBad t = !(stripPad t).all callCharOk := by
  simp [callsignCharBad, callCharOk_eq, List.not_all_eq_any_not]

theorem checkCallsign_eq (w : Byte) (t : List Byte) : checkCallsign w t = firstFailing (callsignChecks w t) := by
  have hchecks : firstFailing (callsignChecks w t) = if callsignLenBad t then some (1, w)
      else if callsignCharBad t then some (2, w) else none := by
    rw [callsignChecks, firstFailing_cons, firstFailing_cons, firstFailing_nil]
  unfold checkCallsign
  split_ifs with hlong hempty hchars
  · simp [hchecks, callsignLenBad, hlong, causeCallsignLen]
  · simp [hchecks, callsignLenBad, hempty, causeCallsignLen]
  · simp [hchecks, callsignLenBad, callsignCharBad_eq, hlong, hempty, hchars]
  · simp [hchecks, callsignLenBad, callsignCharBad_eq, hlong, hempty, hchars, causeCallsignChar]

theorem checkSsid_eq (w n : Byte) : checkSsid w n = firstFailing (ssidChecks w n) := by
  simp [ssidChecks, firstFailing_cons, firstFailing_nil, checkSsid, BitVec.lt_def, causeSsidRange]

/-- An address group that is left out fails as one with empty callsigns (log 10). -/
theorem checkAddr_eq (o : Option AddrGroup) : checkAddr o = firstFailing (addrChecks (o.getD ⟨[], 0, [], 0⟩)) := by
  cases o with
  | none => rfl
  | some a =>
    simp only [checkAddr, checkCallsign_eq, checkSsid_eq, addrChecks, firstFailing_append, Option.getD_some]

theorem exceeds_eq_any (n : Nat) (o : Option Nat) : exceeds n o = o.any (· < n) := by
  cases o <;> rfl

/-- CFG.LOAD reports the first failing check in the order of R249. -/
theorem checkCfg_eq (p : Params) (v : CfgValues) : checkCfg p v = firstFailing (checksInOrder p v) := by
  have hgroup : addrChecked p v = (v.flags.getLsbD 4 || p.addrCheckAlways) := rfl
  simp only [checkCfg, checksInOrder, checkAddr_eq, addrChecks, callsignChecks, ssidChecks, List.cons_append,
    List.nil_append, firstFailing_cons, firstFailing_nil, exceeds_eq_any, hgroup, bne_iff_ne]
  cases v.flags.getLsbD 4 || p.addrCheckAlways with
  | false => rfl
  | true => simp only [Bool.true_and, if_true]; rfl

theorem execCfgLoad_of_invalid {s : State} {e : BitVec 4 × Byte} (hs : s.seq.phase = .reset)
    (he : checkCfg s.par s.cfgPort = some e) : exec .cfgLoad s = .next (raiseConfigurationError e.1 e.2 s) := by
  show execCfgLoad s = _
  simp [execCfgLoad, hs, he]

/-- Settles O3: the check that fails is the one raised, by `checkCfg_eq`. -/
theorem configurationErrorsInOrder : Obligations.ConfigurationErrorsInOrder := by
  intro s e hs hfind
  have hcheck : checkCfg s.par s.cfgPort = some e.2 := by
    rw [checkCfg_eq, firstFailing, hfind]
    rfl
  exact ⟨_, execCfgLoad_of_invalid hs hcheck, rfl, raiseConfigurationError_shows e.2.1 e.2.2 s⟩

end Sys2Proof.Proofs

/-! PROOFS. The boundary between host and core (R229, R255): what each transaction of the host leaves unchanged, and that
no step gives a word. -/

namespace Sys2Proof.Proofs

open Sys2Proof Sys2Proof.Machine Sys2Proof.Spec

/-- Everything PDU.ACCEPT can do (R228, R232): nothing outside phase IDLE, and there an error or an encode begun. -/
theorem execPduAccept_cases (p : List Byte) (s : State) :
    ∃ t, execPduAccept p s = .next t ∧
      (s.seq.phase ≠ .idle ∧ t = s ∨
        s.seq.phase = .idle ∧ ((∃ c, t = raiseEncodingError c 0 s) ∨ t = accepted p s)) := by
  refine ⟨_, rfl, ?_⟩
  by_cases hphase : s.seq.phase = .idle
  · refine .inr ⟨hphase, ?_⟩
    rw [if_pos hphase]
    split
    · exact .inl ⟨_, rfl⟩
    · split
      · exact .inl ⟨_, rfl⟩
      · exact .inr rfl
  · exact .inl ⟨hphase, if_neg hphase⟩

/-! ### What a transaction leaves unchanged (R229, R255) -/

/-- The registers and counters that no transaction of the host touches, the word and the host's further moves. -/
structure Internals where
  cfg : CfgRegs
  crc : BitVec 16
  fcs : BitVec 16
  lfsr : BitVec 9
  ones : BitVec 3
  addr : Bool
  sampleCnt : BitVec 64
  par : Params
  host : List HostMove
  word : Option (List Byte)

def internals (s : State) : Internals :=
  ⟨s.cfg, s.crc, s.fcs, s.lfsr, s.ones, s.held.addr, s.sampleCnt, s.par, s.host, s.word⟩

/-- `s` with the ports and OUTQ of `t`. -/
def withPortsOf (t s : State) : State :=
  { s with outq := t.outq, sampOut := t.sampOut, statOut := t.statOut, cfgPort := t.cfgPort }

/-- The transaction `m` leads from `s` to `t` over its own port. -/
structure OverPort (m : HostMove) (s t : State) : Prop where
  internals_eq : internals t = internals s
  stream : m ≠ .pop → t.outq = s.outq ∧ t.sampOut = s.sampOut
  status : m ≠ .status → t.statOut = s.statOut
  cfgPort : (∀ v, m ≠ .drive v) → t.cfgPort = s.cfgPort
  rest : m.isPush = false ∨ s.seq.phase ≠ .idle → t = withPortsOf t s ∧ (t.outq = s.outq ∨ t.outq = s.outq.tail)

/-- A push that is taken begins an encode or is answered with an error: it writes no port but its own answer. -/
theorem overPort_push {s t : State} {p : List Byte} (hphase : s.seq.phase = .idle)
    (h : (∃ c, t = raiseEncodingError c 0 s) ∨ t = accepted p s) : OverPort (.push p) s t := by
  have hrest {P : Prop} : (HostMove.push p).isPush = false ∨ s.seq.phase ≠ .idle → P :=
    fun hor => hor.elim (fun hpush => by cases hpush) (fun hne => absurd hphase hne)
  rcases h with ⟨c, rfl⟩ | rfl <;> exact ⟨rfl, fun _ => ⟨rfl, rfl⟩, fun _ => rfl, fun _ => rfl, hrest⟩

theorem hostMove_overPort {m : HostMove} (hwait : m ≠ .wait) (hreset : m ≠ .reset) (s : State) :
    ∃ t, hostMove m s = .next t ∧ OverPort m s t := by
  cases m with
  | wait => exact absurd rfl hwait
  | reset => exact absurd rfl hreset
  | drive v =>
    exact ⟨_, rfl, rfl, fun _ => ⟨rfl, rfl⟩, fun _ => rfl, fun hne => absurd rfl (hne v), fun _ => ⟨rfl, .inl rfl⟩⟩
  | status =>
    exact ⟨_, rfl, rfl, fun _ => ⟨rfl, rfl⟩, fun hne => absurd rfl hne, fun _ => rfl, fun _ => ⟨rfl, .inl rfl⟩⟩
  | pop =>
    exact ⟨_, execSamplePop_eq s, rfl, fun hne => absurd rfl hne, fun _ => rfl, fun _ => rfl,
      fun _ => ⟨rfl, .inr rfl⟩⟩
  | push p =>
    obtain ⟨t, hexec, ⟨-, rfl⟩ | ⟨hphase, ht⟩⟩ := execPduAccept_cases p s
    · exact ⟨_, hexec, rfl, fun _ => ⟨rfl, rfl⟩, fun _ => rfl, fun _ => rfl, fun _ => ⟨rfl, .inl rfl⟩⟩
    · exact ⟨t, hexec, overPort_push hphase ht⟩

/-! ### No step gives a word (log 31) -/

theorem coreStep_word {s t : State} (h : coreStep s = .next t) : t.word = s.word := by
  rcases coreStep_next_cases h with ⟨i, hmove, hexec⟩ | ⟨rfl, -⟩
  · exact (coreMove_keeps_inputs hmove hexec).2
  · rfl

theorem hostMove_word {m : HostMove} {s t : State} (hw : s.word = none) (h : hostMove m s = .next t) :
    t.word = none := by
  by_cases hwait : m = .wait
  · subst hwait
    exact (coreStep_word h).trans hw
  · by_cases hreset : m = .reset
    · subst hreset
      cases h
      rfl
    · obtain ⟨u, hu, hover⟩ := hostMove_overPort hwait hreset s
      obtain rfl : t = u := Host.Outcome.next.inj (h.symm.trans hu)
      exact (congrArg Internals.word hover.internals_eq).trans hw

theorem step_word_none {s t : State} (hw : s.word = none) (h : step s = .next t) : t.word = none := by
  cases hh : s.host with
  | nil =>
    rw [step_nil hw hh] at h
    exact (coreStep_word h).trans hw
  | cons m r =>
    rw [step_host hw hh] at h
    exact hostMove_word (s := hostTaken s) hw h

/-- Settles O48: the step is the transaction with the move used up, which stays over its port. -/
theorem hostTouchesOnlyThePorts : Obligations.HostTouchesOnlyThePorts := by
  refine fun s hw => ⟨fun t => step_word_none hw, fun m r hh hwait hreset => ?_⟩
  obtain ⟨t, hmove, hover⟩ := hostMove_overPort hwait hreset { s with host := r }
  have hkept := hover.internals_eq
  refine ⟨t, ?_, congrArg Internals.host hkept, congrArg Internals.cfg hkept, congrArg Internals.crc hkept,
    congrArg Internals.fcs hkept, congrArg Internals.lfsr hkept, congrArg Internals.ones hkept,
    congrArg Internals.addr hkept, congrArg Internals.sampleCnt hkept, congrArg Internals.par hkept, hover.stream,
    hover.status, hover.cfgPort, hover.rest⟩
  rw [step_host hw hh, hostTaken_eq hh, hmove]

end Sys2Proof.Proofs

/-! PROOFS. A burst that does not fit (R215, R246, R254): up to slot E8 the encode builds the line of the closed form
whatever its length, and SETTLE in slot E9 raises INTERNAL. -/

namespace Sys2Proof.Proofs

open Sys2Proof Sys2Proof.Machine Sys2Proof.Spec

section
variable {g : CfgRegs} {p : List Byte} {k : Slot} {s : State}

/-- The slots before SETTLE carry the encode on whatever the length of the burst. -/
theorem carried_before_settle (hk : 3 ≤ slotNum k ∧ slotNum k ≤ 8) (h : Carried g p (prevSlot k) s) :
    Carried g p k (runSlot k s) := by
  obtain ⟨u, rfl, hu⟩ := h
  cases hrun : slotRuns g.cr0 k with
  | false =>
    rw [completeSlot_prevSlot_skips (hu.cfg ▸ hrun), runSlot_elsewhere (nextSeq_ne _ k)]
    exact ⟨_, rfl, hu.skip hrun⟩
  | true =>
    rw [completeSlot_prevSlot_runs (hu.cfg ▸ hrun)]
    have hat := hu.withSeq ⟨.encoding, k⟩
    cases k with
    | e0 | e1 | e2 | e9 | e10 => exact absurd hk (by decide)
    | e3 => exact doCrc16Append_carried rfl hrun hat
    | e4 => exact doWhiten_carried rfl hrun hat
    | e5 => exact doSer_carried rfl hat
    | e6 => exact doAx25Stuff_carried rfl hrun hat
    | e7 => exact doManch_carried rfl hrun hat
    | e8 => exact doNrz_carried rfl hat

/-- The slots that build the samples of the line. -/
def lineSlots : List Slot := [.e1, .e2, .e3, .e4, .e5, .e6, .e7, .e8]

/-- The state after them, before SETTLE. -/
def mapped (s : State) : State := lineSlots.foldl (fun t k => runSlot k t) s

theorem mapped_carried (h : readyToEncode s p) : Carried s.cfg p .e8 (undescribed (mapped s)) := by
  obtain ⟨hs, hpb, haddr⟩ := h
  have hframed : Carried s.cfg p .e2 (undescribed (runSlot .e2 (synced s))) := by
    rw [← runSlot_undescribed (by decide)]
    exact runSlot_e2_carried rfl ⟨rfl, hpb, haddr, rfl⟩ rfl
  have hrange : ∀ k ∈ [Slot.e3, .e4, .e5, .e6, .e7, .e8], (3 ≤ slotNum k ∧ slotNum k ≤ 8) ∧ k ≠ .e10 := by decide
  rw [mapped, lineSlots, List.foldl_cons, runSlot_e1 hs, List.foldl_cons]
  refine foldl_runSlot (P := fun k t => Carried s.cfg p k (undescribed t)) (k := .e2) (by decide)
    (fun k hk t ht => ?_) hframed
  rw [← runSlot_undescribed (hrange k hk).2]
  exact carried_before_settle (hrange k hk).1 ht

theorem sampleBuf_of_carried_e8 (h : Carried g p .e8 (undescribed s)) :
    s.seq = ⟨.encoding, .e9⟩ ∧ s.sb.s = some ((lineOf g p).map nrzBit) := by
  obtain ⟨u, hu, hpassed⟩ := h
  have hseq : (undescribed s).seq = (completeSlot .e8 u).seq := congrArg State.seq hu
  have hsb : (undescribed s).sb.s = (completeSlot .e8 u).sb.s := congrArg (fun t => t.sb.s) hu
  rw [completeSlot_seq, nextSeq_eq] at hseq
  rw [completeSlot_sb] at hsb
  exact ⟨hseq, hsb.trans hpassed.holds⟩

/-- SETTLE finds the samples of the line (R212). -/
theorem mapped_sampleBuf (h : readyToEncode s p) :
    (mapped s).seq = ⟨.encoding, .e9⟩ ∧ (mapped s).sb.s = some ((lineOf s.cfg p).map nrzBit) :=
  sampleBuf_of_carried_e8 (mapped_carried h)

theorem slotStages_isStage (k : Slot) : ∀ f ∈ slotStages k, IsStage f := by
  intro f hf
  cases k with
  | e0 => cases hf
  | e1 | e2 | e3 | e4 | e5 | e6 | e7 | e8 | e9 | e10 =>
    exact pipeline_isStage f (pipeline_eq_slots ▸ List.mem_flatMap.mpr ⟨_, by simp [allSlots], hf⟩)

/-- Slots after which the core is still inside the encode have worked only. -/
theorem foldl_runSlot_within {ks : List Slot}
    (hphase : (ks.foldl (fun t k => runSlot k t) s).seq.phase = .encoding) :
    Within s (ks.foldl (fun t k => runSlot k t) s) := by
  have hfold : ks.foldl (fun t k => runSlot k t) s = (ks.flatMap slotStages).foldl (fun t f => f t) s := by
    rw [List.foldl_flatMap]
    rfl
  have hstages : ∀ f ∈ ks.flatMap slotStages, IsStage f := fun f hf => by
    obtain ⟨k, -, hk⟩ := List.mem_flatMap.mp hf
    exact slotStages_isStage k f hk
  rw [hfold] at hphase ⊢
  obtain ⟨u, hsu, hu | hends⟩ := foldl_stages_cases hstages s
  · rw [hu]
    exact hsu
  · exact absurd (hends.phase.symm.trans hphase) (by decide)

theorem mapped_within (h : readyToEncode s p) : Within s (mapped s) := by
  have hphase : (mapped s).seq.phase = .encoding := by rw [(mapped_sampleBuf h).1]
  rw [mapped] at hphase ⊢
  exact foldl_runSlot_within hphase

theorem runPipeline_eq_mapped (s : State) : runPipeline s = runSlot .e10 (runSlot .e9 (mapped s)) := by
  have hslots : allSlots = lineSlots ++ [.e9, .e10] := rfl
  have hfold : allSlots.foldl (fun t k => runSlot k t) s =
      runSlot .e10 (runSlot .e9 (lineSlots.foldl (fun t k => runSlot k t) s)) := by
    rw [hslots, List.foldl_append, List.foldl_cons, List.foldl_cons, List.foldl_nil]
  rw [runPipeline_eq_slots, hfold, mapped]

/-- SETTLE of a line that is too long (R246). -/
theorem runSlot_e9_of_overflow {l : List Sample} (hs : s.seq = ⟨.encoding, .e9⟩) (hl : s.sb.s = some l)
    (hlong : lenLimit ≤ l.length + s.cfg.cr7.toNat) : runSlot .e9 s = raiseEncodingError causeInternal 9 s :=
  Host.Outcome.next.inj (exec_settle_of_overflow hs hl hlong)

/-- A burst that does not fit ends the encode in slot E9, and E10 does not run. -/
theorem runPipeline_of_overflow (h : readyToEncode s p) (hover : ¬ fits s p) :
    ∃ u, Within s u ∧ runPipeline s = raiseEncodingError causeInternal 9 u := by
  obtain ⟨hat, hsb⟩ := mapped_sampleBuf h
  have hwithin := mapped_within h
  have hlong : lenLimit ≤ ((lineOf s.cfg p).map nrzBit).length + (mapped s).cfg.cr7.toNat := by
    rw [List.length_map, hwithin.cfg]
    exact Nat.not_lt.mp hover
  refine ⟨mapped s, hwithin, ?_⟩
  rw [runPipeline_eq_mapped, runSlot_e9_of_overflow hat hsb hlong]
  exact runSlot_elsewhere (by simp)

end

/-- Settles O41: the encode ends by the INTERNAL of SETTLE, which keeps what the slots before it have kept. -/
theorem encodeOverflowIsInternal : Obligations.EncodeOverflowIsInternal := by
  intro s p h hover
  obtain ⟨u, hwithin, hrun⟩ := runPipeline_of_overflow h hover
  obtain ⟨henc, hcfg, hshows, -⟩ := raiseEncodingError_from causeInternal 9 u
  refine ⟨raiseEncodingError causeInternal 9 u, ?_, henc, ?_, hshows, hwithin.outq, hwithin.sampleCnt, rfl, rfl,
    hwithin.cfg, rfl, rfl, rfl, rfl⟩
  · rw [exec_encode h.1, hrun]
  · rw [hcfg, hwithin.err]

end Sys2Proof.Proofs
